-- ==== Sys2Proof/Word.lean ====
section
/-! DEFINITION. The word types of the block: channel bytes, nibbles, transmission words, command words. -/

namespace Sys2Proof

/-- One colour channel, `CH_W` = 8 bits (R4, R61). -/
abbrev Byte := BitVec 8

/-- A nibble, `NIB_W` = 4 bits (R4, R62). -/
abbrev Nibble := BitVec 4

/-- One word of TXB or of TABLE, `WORD_W` = 16 bits (R4, R63). -/
abbrev Word := BitVec 16

/-- An LED count or a pixel index as a command carries it: 16 bits, unsigned (R4 `IDX_W`, R15, R73). -/
abbrev Count := BitVec 16

/-- The opaque reference to a caller's pixel buffer, `REF_W` = 24 bits (R16). -/
abbrev Handle := BitVec 24

/-- A platform fault code, `ERR_W` = 32 bits (R4, R26). -/
abbrev ErrCode := BitVec 32

/-- A command word on the command port (R69). -/
abbrev Command := BitVec 64

end Sys2Proof
end

