-- ==== Sys2Proof/Syntax.lean ====
section
/-! DEFINITION. Syntax: the operands, the 28 rows of the opcode table as ONE inductive, and what can stand at the
block's input. -/

namespace Sys2Proof

/-- The Protocol Model (R14): `variantA` sends green, red, blue; `variantB` sends red, green, blue (R67). -/
inductive Model where
  | variantA
  | variantB
  deriving DecidableEq, Repr, Inhabited

/-- A pixel: three 8-bit channels and no other field (R61). -/
structure Pixel where
  r : Byte
  g : Byte
  b : Byte
  deriving DecidableEq, Repr, Inhabited

/-- The name of one channel of a pixel (R29). -/
inductive Chan where
  | r
  | g
  | b
  deriving DecidableEq, Repr, Inhabited

/-- The operations. One constructor per row of spec/opcode_table.json: the six host commands (R68, R70), the five
internal stages, which have no encoding (R71), the sixteen rows of TABLE (R105), and the row for every other command
word (R76). -/
inductive Instr where
  /-- `init(pin, protocol_model, led_count, pixel_buffer_ref)` (R130). -/
  | init (pin : Byte) (model : Model) (leds : Count) (ref : Handle)
  /-- `fill(color, from_index, to_index)`, the half-open range `[lo, hi)` (R141). -/
  | fill (color : Pixel) (lo hi : Count)
  /-- `fill_all(color)` (R142). -/
  | fillAll (color : Pixel)
  /-- `set_brightness(level)` (R143). -/
  | setBrightness (level : Byte)
  /-- `set_color_correction(enabled)` (R144). -/
  | setColorCorrection (en : Bool)
  /-- `update()` (R147). -/
  | update
  /-- PRE, the Color Preprocessor, on pixel `i` (R90). -/
  | pre (i : Count)
  /-- MUX, the channel-order selection of an adjusted pixel (R106). -/
  | mux (p : Pixel)
  /-- ENC, one channel byte to two words (R100). -/
  | enc (v : Byte)
  /-- BUILD, the Transmission Buffer Builder (R110). -/
  | build
  /-- TX, the Transmitter (R120). -/
  | tx
  /-- The sixteen rows of TABLE, one lookup each (R105). -/
  | lut0 | lut1 | lut2 | lut3 | lut4 | lut5 | lut6 | lut7
  | lut8 | lut9 | lutA | lutB | lutC | lutD | lutE | lutF
  /-- A command word that matches no row of R70 (R76). -/
  | illegalCmd (w : Command)
  deriving DecidableEq, Repr

/-- What can be given to the decoder: a word on the command port (R69), or a nibble at TABLE's address input, which
is what the opcode table's `lut` rows match (R71). -/
inductive Source where
  | command (w : Command)
  | tableAddr (n : Nibble)
  deriving DecidableEq, Repr

end Sys2Proof
end

