-- ==== Sys2Proof/WellFormed.lean ====
section
/-! DEFINITION. Which terms of `Instr` are operations of the hardware. Every operand field of a command covers
exactly its legal range (R73), so two checks remain: a reserved word must be reserved, and a pixel index must lie
below some possible LED count. -/

namespace Sys2Proof

/-- The reserved command words, told by their fields (R74, R75, R76): a reserved opcode, a non-zero bit in a field
marked zero, or an illegal `MODEL` value. The decoder tells them by R70's match and mask columns instead. -/
def reservedWord (w : Command) : Bool :=
  match (w.extractLsb' 56 8).toNat with
  | 1 => decide (1 < (w.extractLsb' 40 8).toNat)
  | 2 => false
  | 3 => w.extractLsb' 0 32 != 0
  | 4 => w.extractLsb' 0 48 != 0
  | 5 => w.extractLsb' 49 7 != 0 || w.extractLsb' 0 48 != 0
  | 6 => w.extractLsb' 0 56 != 0
  | _ => true

/-- An illegal command is a reserved word (R76); PRE's index is below some LED count, and none exceeds `MAX_LEDS`
= 65535 (R15, R90). -/
def Instr.wf : Instr → Bool
  | .illegalCmd w => reservedWord w
  | .pre i => decide (i.toNat < 65535)
  | .init _ _ _ _ => true
  | .fill _ _ _ => true
  | .fillAll _ => true
  | .setBrightness _ => true
  | .setColorCorrection _ => true
  | .update => true
  | .mux _ => true
  | .enc _ => true
  | .build => true
  | .tx => true
  | .lut0 => true
  | .lut1 => true
  | .lut2 => true
  | .lut3 => true
  | .lut4 => true
  | .lut5 => true
  | .lut6 => true
  | .lut7 => true
  | .lut8 => true
  | .lut9 => true
  | .lutA => true
  | .lutB => true
  | .lutC => true
  | .lutD => true
  | .lutE => true
  | .lutF => true

end Sys2Proof
end

