-- ==== Sys2Proof/Decode.lean ====
section
/-! DEFINITION. The decoder: total on every command word and every table address. A word that matches no row is
rejected by the name ILLEGAL_CMD (R76). After it the encoder, written from the same columns of R70. -/

namespace Sys2Proof

/-- A row of R70's match and mask table. -/
structure OpRow where
  pattern : Command
  mask : Command
  deriving DecidableEq, Repr

/-- R70, match and mask, row by row. -/
def rowInit : OpRow := ⟨0x0100000000000000#64, 0xFF00FE0000000000#64⟩
def rowFill : OpRow := ⟨0x0200000000000000#64, 0xFF00000000000000#64⟩
def rowFillAll : OpRow := ⟨0x0300000000000000#64, 0xFF000000FFFFFFFF#64⟩
def rowSetBrightness : OpRow := ⟨0x0400000000000000#64, 0xFF00FFFFFFFFFFFF#64⟩
def rowSetColorCorrection : OpRow := ⟨0x0500000000000000#64, 0xFFFEFFFFFFFFFFFF#64⟩
def rowUpdate : OpRow := ⟨0x0600000000000000#64, 0xFFFFFFFFFFFFFFFF#64⟩

/-- The six rows in the table's order. -/
def opRows : List OpRow :=
  [rowInit, rowFill, rowFillAll, rowSetBrightness, rowSetColorCorrection, rowUpdate]

/-- A word matches a row when its masked bits are the row's pattern (R70). -/
def OpRow.hits (row : OpRow) (w : Command) : Bool :=
  w &&& row.mask == row.pattern

/-- The `MODEL` codes (R14, R74); INIT's mask has already ruled out every code but 0 and 1. -/
def modelOfByte (c : Byte) : Model :=
  if c = 0#8 then .variantA else .variantB

/-- The operand columns of R70: a colour is `R`, `G`, `B` from `[55:48]` down. -/
def colorOf (w : Command) : Pixel :=
  { r := w.extractLsb' 48 8, g := w.extractLsb' 40 8, b := w.extractLsb' 32 8 }

/-- Decoding a command word (R69, R70, R76): the first row it matches, and no two rows match one word. -/
def decodeCommand (w : Command) : Instr :=
  if rowInit.hits w then
    .init (w.extractLsb' 48 8) (modelOfByte (w.extractLsb' 40 8)) (w.extractLsb' 24 16) (w.extractLsb' 0 24)
  else if rowFill.hits w then
    .fill (colorOf w) (w.extractLsb' 16 16) (w.extractLsb' 0 16)
  else if rowFillAll.hits w then
    .fillAll (colorOf w)
  else if rowSetBrightness.hits w then
    .setBrightness (w.extractLsb' 48 8)
  else if rowSetColorCorrection.hits w then
    .setColorCorrection (w.getLsbD 48)
  else if rowUpdate.hits w then
    .update
  else
    .illegalCmd w

/-- Decoding a table address: the row of TABLE the nibble names (R71, R105; DESIGN CHOICE: log entry 26). -/
def decodeNibble (n : Nibble) : Instr :=
  match n.toNat with
  | 0 => .lut0
  | 1 => .lut1
  | 2 => .lut2
  | 3 => .lut3
  | 4 => .lut4
  | 5 => .lut5
  | 6 => .lut6
  | 7 => .lut7
  | 8 => .lut8
  | 9 => .lut9
  | 10 => .lutA
  | 11 => .lutB
  | 12 => .lutC
  | 13 => .lutD
  | 14 => .lutE
  | _ => .lutF

/-- The decoder, total. -/
def decode : Source → Instr
  | .command w => decodeCommand w
  | .tableAddr n => decodeNibble n

/-- The source a numbered word of the opcode table stands for: a row of fewer than 64 bits is a table address, a row
of 64 bits a command word. -/
def tableSource (nbits w : Nat) : Source :=
  if nbits < 64 then .tableAddr (BitVec.ofNat 4 w) else .command (BitVec.ofNat 64 w)

/-- What the decoder reads from an opcode-table word; none where the word does not fit its row's width (a table
address is one nibble, a command word 64 bits). -/
def decodeTableWord (nbits w : Nat) : Option Instr :=
  if w < (if nbits < 64 then 16 else 2 ^ 64) then some (decode (tableSource nbits w)) else none

/-! ### The encoder -/

/-- The `MODEL` code of a model (R14). -/
def byteOfModel : Model → Byte
  | .variantA => 0#8
  | .variantB => 1#8

/-- A colour as the columns `[55:48]`, `[47:40]`, `[39:32]`. -/
def colorBits (p : Pixel) : BitVec 24 := p.r ++ p.g ++ p.b

/-- `OPC` in `[63:56]` over 56 operand bits (R69). -/
def commandWord (opc : Byte) (operands : BitVec 56) : Command := opc ++ operands

/-- The words of an operation (R70, R71): none for the internal stages. -/
def encode : Instr → Option Source
  | .init pin m leds ref => some (.command (commandWord 0x01#8 (pin ++ byteOfModel m ++ leds ++ ref)))
  | .fill c lo hi => some (.command (commandWord 0x02#8 (colorBits c ++ lo ++ hi)))
  | .fillAll c => some (.command (commandWord 0x03#8 (colorBits c ++ 0#32)))
  | .setBrightness level => some (.command (commandWord 0x04#8 (level ++ 0#48)))
  | .setColorCorrection en => some (.command (commandWord 0x05#8 (0#7 ++ BitVec.ofBool en ++ 0#48)))
  | .update => some (.command (commandWord 0x06#8 0#56))
  | .pre _ => none
  | .mux _ => none
  | .enc _ => none
  | .build => none
  | .tx => none
  | .lut0 => some (.tableAddr 0#4)
  | .lut1 => some (.tableAddr 1#4)
  | .lut2 => some (.tableAddr 2#4)
  | .lut3 => some (.tableAddr 3#4)
  | .lut4 => some (.tableAddr 4#4)
  | .lut5 => some (.tableAddr 5#4)
  | .lut6 => some (.tableAddr 6#4)
  | .lut7 => some (.tableAddr 7#4)
  | .lut8 => some (.tableAddr 8#4)
  | .lut9 => some (.tableAddr 9#4)
  | .lutA => some (.tableAddr 10#4)
  | .lutB => some (.tableAddr 11#4)
  | .lutC => some (.tableAddr 12#4)
  | .lutD => some (.tableAddr 13#4)
  | .lutE => some (.tableAddr 14#4)
  | .lutF => some (.tableAddr 15#4)
  | .illegalCmd w => some (.command w)

end Sys2Proof
end

