-- ==== Sys2Proof/Config.lean ====
section
/-! DEFINITION. What an implementation fixes and the spec leaves open, and the values nothing fixes (the oracle
draws). Every open parameter and every draw is a constant without a body: no proof can learn its value. `SCALE`,
`CORR_G` and `CORR_B` are built in Machine/Operands.lean from three of them, so that their laws hold whatever the three
are; the decided `TABLE` and `GAP_A` stand there too. -/

namespace Sys2Proof

/-- What the transport's registration calls answer: `ok` or `fail(e)` (R177). -/
inductive RegAnswer where
  | ok
  | fail (e : ErrCode)
  deriving DecidableEq, Repr, Inhabited

/-- What the allocator answers: a buffer, or no buffer (R133, R176). -/
inductive AllocAnswer where
  | ok
  | fail
  deriving DecidableEq, Repr, Inhabited

/-- One move of the transport while a transfer is in flight (R124, R177).
`clock n`: it has not answered yet and has put up to `n` further physical bits on the line (`n = 0`: nothing yet).
`done`: the transfer completed (R123). `fault e n`: it reports the fault code `e`, after up to `n` further bits
(R125, R127). A transport that never answers makes `clock` moves for ever (R126). -/
inductive TxAnswer where
  | clock (n : Nat)
  | done
  | fault (e : ErrCode) (n : Nat)
  deriving DecidableEq, Repr, Inhabited

namespace Config

/-- `MAX_LEDS`, the largest LED count a command can carry (R4, R15). -/
def maxLeds : Nat := 65535

/-- `GAP_B`, the reset gap of the red-green-blue variant in words: OPEN (R4, R132; 92 D4). -/
opaque gapB : Nat

/-- `CORR_RESET`, the colour-correction flag after reset: OPEN (R4, R23; 92 D9). -/
opaque corrReset : Bool

/-- `F_SCLK`, the serial clock rate in hertz: OPEN, and no rule uses it (R4, R208; 92 D31). -/
opaque fSclk : Nat

/-- The open part of `SCALE` (R4, R92): whether it falls one below the exact quotient at an operand pair where law L3
allows that. A function of the two operands alone, as R92 says of `SCALE`. -/
opaque scaleLow : Byte → Byte → Bool

/-- The open parts of `CORR_G` and `CORR_B` (R4, R93): the points from which the two curves are made. -/
opaque curveG : Byte → Byte
opaque curveB : Byte → Byte

/-- What a channel of pixel memory holds that nobody has written: any value (R29, 93 U6). The arguments are the
generation of the host's buffer and the cell's key. -/
opaque freeChannel : Nat → Nat → Byte

/-- What a word of TXB holds between INIT and the first BUILD: any value (R30, 93 U7). -/
opaque freeWord : Nat → Word

/-- The answers of the platform's four services when no input of the run fixes them (R134, R133, R124): the `n`th
answer taken since reset. -/
opaque freeBus : Nat → RegAnswer
opaque freeDev : Nat → RegAnswer
opaque freeAlloc : Nat → AllocAnswer
opaque freeTx : Nat → TxAnswer

end Config

end Sys2Proof
end

