-- ==== Sys2Proof/Machine/State.lean ====
section
/-! DEFINITION. The state of the block, of the memories it shares with the host and the transport, and of the inputs
the outside world gives it; the reasons a step can stop; reset. Plain data throughout. -/

namespace Sys2Proof.Machine

/-- Why a step can stop with a machine fault: never. Every fault the spec gives this hardware (R160 to R164) ends its
command with a next state, in which `RESULT` tells it; an access outside a memory is a refusal or cannot be formed
(R7, R44). -/
inductive Fault where
  deriving DecidableEq, Repr

/-- Why an event has no step: the cases the spec gives no meaning (R165), each by its letter there. Each is safe: the
model stops where the hardware would do something nobody states. -/
inductive Refusal where
  /-- An operation without a meaning in this model; raised by exec's arms only. -/
  | notModelled (mnemonic : String)
  /-- FILL with `from > LEDS` or `to > LEDS` (R165 (a)); raised by FILL. -/
  | fillRange
  /-- An operation that needs a session, without one (R165 (b)); raised by FILL, FILL_ALL, UPDATE and the stages. -/
  | noSession
  /-- INIT while a session is valid (R165 (c)); raised by INIT. -/
  | sessionValid
  /-- Pixel memory an INIT fault released (R165 (d)); raised by INIT and the host's accesses. -/
  | pixReleased
  /-- A command while `FAULTED = 1` (R165 (e)); raised by every legal command and by PRE, BUILD and TX. -/
  | blockFaulted
  /-- An access to pixel memory while an UPDATE is in progress (R165 (f)); raised by the host's accesses. -/
  | pixBusy
  /-- A pixel index beyond the buffer (R165 (g), R7); raised by the host's accesses and by PRE. -/
  | pixIndex
  /-- INIT naming pixel memory shorter than its LED count (R165 (h), R137 (d)); raised by INIT. -/
  | pixBufferShort
  /-- The session's pixel buffer freed or resized by the host (R165 (h)); raised by the host's resize. -/
  | pixBufferMoved
  /-- A second command while one is executing (93 U23, R69); raised by every command, and by PRE and BUILD during a
  transfer (R52). -/
  | commandBusy
  /-- TX without a completed Transmission Buffer (R120, R207); raised by TX. -/
  | txNoFrame
  deriving DecidableEq, Repr

/-- The sequencer's phase (R11). -/
inductive Phase where
  | idle
  | building
  | waiting
  deriving DecidableEq, Repr, Inhabited

/-- `RESULT.KIND` (R26, R72); code 6 is reserved and never written, so it has no name here. -/
inductive ResultKind where
  | ok
  | busRegFail
  | devRegFail
  | allocFail
  | transferError
  | sizeMismatch
  | illegalCmd
  deriving DecidableEq, Repr, Inhabited

/-- The result register: `KIND` and `CODE` (R26). -/
structure Result where
  kind : ResultKind
  code : ErrCode
  deriving DecidableEq, Repr, Inhabited

/-- `PIXOWN`: who may still use a pixel memory (R33 (c)). -/
inductive PixOwn where
  | caller
  | released
  deriving DecidableEq, Repr, Inhabited

/-- A pixel memory of the host: its own length in pixels (R150, R194), who may use it (R33), and how many times the
host has allocated it anew (which fixes what its unwritten channels hold). -/
structure HostBuf where
  len : Count
  own : PixOwn
  gen : Nat
  deriving DecidableEq, Repr, Inhabited

/-- MUX's result: the three channel bytes in transmission order (R106). -/
structure Triple where
  c0 : Byte
  c1 : Byte
  c2 : Byte
  deriving DecidableEq, Repr, Inhabited

/-- ENC's result: the high nibble's word, then the low nibble's (R100). -/
structure WordPair where
  w0 : Word
  w1 : Word
  deriving DecidableEq, Repr, Inhabited

/-- A call the block makes across the platform boundary (R176 to R178), as the platform sees it. -/
inductive PlatCall where
  | busRegister (pin : Byte)
  | devRegister
  | allocDma (bytes : Nat)
  | transmit (nbits : Nat)
  deriving DecidableEq, Repr, Inhabited

/-- The platform's answers still to come, one list per service, and how many answers have been taken. Where a list is
empty the answer is a draw (Config.freeBus and its like). -/
structure Platform where
  bus : List RegAnswer
  dev : List RegAnswer
  alloc : List AllocAnswer
  tx : List TxAnswer
  taken : Nat
  deriving DecidableEq, Repr

/-- One move of the outside world towards the block or the pixel memory. -/
inductive HostMove where
  /-- The host presents a command word (R69); or a nibble stands at TABLE's address input (R40, R105). -/
  | fetch (src : Source)
  /-- The host stores to one channel of a pixel memory (R150). -/
  | store (ref : Handle) (i : Count) (c : Chan) (v : Byte)
  /-- The host loads one channel of a pixel memory (R151). -/
  | load (ref : Handle) (i : Count) (c : Chan)
  /-- The host allocates, resizes or (with length 0) frees a pixel memory (R194, R165 (h)). -/
  | resize (ref : Handle) (len : Count)
  deriving DecidableEq, Repr

/-- The state. -/
structure State where
  /-- `PIN` (R13). -/
  pin : Byte
  /-- `MODEL` (R14). -/
  model : Model
  /-- `LEDS` (R15). -/
  leds : Count
  /-- `PIXREF` (R16). -/
  pixref : Handle
  /-- `RESET_GAP`, in words (R18). -/
  resetGap : Nat
  /-- `WORD_COUNT` (R19). -/
  wordCount : Nat
  /-- `VALID` (R17). -/
  valid : Bool
  /-- `BRIGHTNESS` (R22). -/
  brightness : Byte
  /-- `CORRECTION` (R23). -/
  correction : Bool
  /-- `RESULT` (R26). -/
  result : Result
  /-- `FAULTED` (R25). -/
  faulted : Bool
  /-- `IN_FLIGHT` (R27). -/
  inFlight : Bool
  /-- `SEQ.PHASE` (R11). -/
  phase : Phase
  /-- `SEQ.PI` (R11). -/
  pi : Nat
  /-- `SEQ.WP` (R11). -/
  wp : Nat
  /-- The working values `r`, `g`, `b` of the pixel being processed (R10). -/
  work : Pixel
  /-- MUX's outputs (R106): the model's own field. -/
  muxOut : Triple
  /-- ENC's outputs (R100): the model's own field. -/
  encOut : WordPair
  /-- TABLE's output, the word last looked up (R31): the model's own field. -/
  lutOut : Word
  /-- The host's pixel memories by handle: lengths and `PIXOWN` (R33, R150). -/
  bufs : List (Nat × HostBuf)
  /-- The channels of pixel memory that have been written (R29), by cell key. -/
  pix : List Host.Cell
  /-- The words of TXB that have been written (R30), by word index. -/
  txb : List (Nat × Word)
  /-- The size of the allocated TXB in bytes; none before a successful INIT (R20). -/
  txbBytes : Option Nat
  /-- `LINE`: the bits on the output line since reset, in time order (R32). -/
  line : List Bool
  /-- How many bits of the transfer in flight are on the line already: the model's own field (R32, R124). -/
  sent : Nat
  /-- The channel the host last loaded (R151): the model's own field. -/
  hostByte : Byte
  /-- The calls made to the platform, oldest first (R176 to R178): an observation, the model's own field. -/
  calls : List PlatCall
  /-- The platform's answers still to come: the model's own field. -/
  plat : Platform
  /-- The outside world's moves still to come, the next one first: the model's own field. -/
  port : List HostMove
  deriving DecidableEq, Repr

/-- The state right after power-on (R190, R191). `BRIGHTNESS` = 255 is the source's; `VALID`, `FAULTED`, `IN_FLIGHT`,
`RESULT`, `PHASE`, `PIXOWN` and `LINE` are R191's; `CORRECTION` is the open `CORR_RESET`. The session registers, `PI`
and `WP`, which R191 leaves unspecified, hold 0 (log entry 1, DESIGN CHOICE), as do the stage outputs. -/
def State.reset : State where
  pin := 0#8
  model := .variantA
  leds := 0#16
  pixref := 0#24
  resetGap := 0
  wordCount := 0
  valid := false
  brightness := 255#8
  correction := Config.corrReset
  result := ⟨.ok, 0#32⟩
  faulted := false
  inFlight := false
  phase := .idle
  pi := 0
  wp := 0
  work := ⟨0#8, 0#8, 0#8⟩
  muxOut := ⟨0#8, 0#8, 0#8⟩
  encOut := ⟨0#16, 0#16⟩
  lutOut := 0#16
  bufs := []
  pix := []
  txb := []
  txbBytes := none
  line := []
  sent := 0
  hostByte := 0#8
  calls := []
  plat := { bus := [], dev := [], alloc := [], tx := [], taken := 0 }
  port := []

end Sys2Proof.Machine
end

