-- ==== Sys2Proof/Machine/Operands.lean ====
section
/-! DEFINITION. The datapath's pure functions: nibbles, TABLE and its inverse, SCALE, the correction curves, the
stages of PRE, MUX, ENC, the bits of a word, the sizes, the keys of pixel memory. -/

namespace Sys2Proof.Machine

/-! ### Nibbles and TABLE -/

/-- `hi(v) = v[7:4]` (R62). -/
def hiNibble (v : Byte) : Nibble := v.extractLsb' 4 4

/-- `lo(v) = v[3:0]` (R62). -/
def loNibble (v : Byte) : Nibble := v.extractLsb' 0 4

/-- `TABLE` (R105): the decided literals, which the opcode table's sixteen `lut` rows repeat (UNVERIFIED: log entry 3). -/
def table (n : Nibble) : Word :=
  match n.toNat with
  | 0 => 0x1111#16
  | 1 => 0x7111#16
  | 2 => 0x1711#16
  | 3 => 0x7711#16
  | 4 => 0x1171#16
  | 5 => 0x7171#16
  | 6 => 0x1771#16
  | 7 => 0x7771#16
  | 8 => 0x1117#16
  | 9 => 0x7117#16
  | 10 => 0x1717#16
  | 11 => 0x7717#16
  | 12 => 0x1177#16
  | 13 => 0x7177#16
  | 14 => 0x1777#16
  | _ => 0x7777#16

/-- The closed form R107 gives for `DEC` with R105's literals: symbol `k` of the word is `0x7` for a 1 in nibble bit
`3 - k`. -/
def decBits (w : Word) : Nibble :=
  BitVec.ofBool (w.extractLsb' 0 4 == 7#4) ++ BitVec.ofBool (w.extractLsb' 4 4 == 7#4)
    ++ BitVec.ofBool (w.extractLsb' 8 4 == 7#4) ++ BitVec.ofBool (w.extractLsb' 12 4 == 7#4)

/-- `DEC`, the inverse lookup: undefined off the image of `TABLE` (R107). Nothing in the block decodes; it serves the
round-trip property (R102). -/
def dec (w : Word) : Option Nibble :=
  if table (decBits w) = w then some (decBits w) else none

/-- ENC as a function (R100): the high nibble's word, then the low nibble's. -/
def encPair (v : Byte) : WordPair := ⟨table (hiNibble v), table (loNibble v)⟩

/-! ### PRE -/

/-- Where law L3 leaves `SCALE` two values (R92): 255 divides the product, the quotient is not 0, and law L5 does not
settle it. -/
def scaleFree (c b : Byte) : Bool :=
  c.toNat * b.toNat % 255 == 0 && c.toNat * b.toNat != 0 && b != 255#8

/-- The scaling function with its free choices `low` (R92): the exact quotient, or one less where `scaleFree` allows it
and `low` says so. Whatever `low` is the laws L1 to L5 hold, and every function that meets them is this one for some
`low` (DEDUCED: log entry 5). -/
def scaleBy (low : Byte → Byte → Bool) (c b : Byte) : Byte :=
  BitVec.ofNat 8 (c.toNat * b.toNat / 255 - if scaleFree c b && low c b then 1 else 0)

/-- The largest of the points `p 0` to `p n`, each point cut down to its own index. -/
def curveMax (p : Byte → Byte) : Nat → Nat
  | 0 => 0
  | n + 1 => max (curveMax p n) (min (p (BitVec.ofNat 8 (n + 1))).toNat (n + 1))

/-- The correction curve through the points `p` (R93). Whatever `p` is the laws C1 to C3 hold, and a function that meets
them is the curve through its own points (DEDUCED: log entry 6). -/
def curveBy (p : Byte → Byte) (v : Byte) : Byte := BitVec.ofNat 8 (curveMax p v.toNat)

/-- `SCALE`, `CORR_G` and `CORR_B`, the configuration functions: bound by their laws and open otherwise (R4, R92,
R93). -/
def scale (c b : Byte) : Byte := scaleBy Config.scaleLow c b
def corrG (g : Byte) : Byte := curveBy Config.curveG g
def corrB (b : Byte) : Byte := curveBy Config.curveB b

/-- The spec's default instantiations of the three (R92, R93; 92 D7, D8). No meaning uses them: they serve to compare the
model with vectors that rest on the defaults. -/
def scaleDefault (c b : Byte) : Byte := BitVec.ofNat 8 (c.toNat * b.toNat / 255)
def corrGDefault (g : Byte) : Byte := BitVec.ofNat 8 (g.toNat * 176 / 255)
def corrBDefault (b : Byte) : Byte := BitVec.ofNat 8 (b.toNat * 240 / 255)

/-- The brightness stage with the scaling function `sc` (R91): 255 is the no-op fast path. -/
def brightStage (sc : Byte → Byte → Byte) (level : Byte) (p : Pixel) : Pixel :=
  if level = 255#8 then p else { r := sc p.r level, g := sc p.g level, b := sc p.b level }

/-- The colour-correction stage with the curves `cg` and `cb` (R93): red passes through. -/
def corrStage (cg cb : Byte → Byte) (on : Bool) (p : Pixel) : Pixel :=
  if on then { p with g := cg p.g, b := cb p.b } else p

/-- PRE's result with given configuration functions: brightness first, then correction (R94). -/
def adjustBy (sc : Byte → Byte → Byte) (cg cb : Byte → Byte) (level : Byte) (on : Bool) (p : Pixel) : Pixel :=
  corrStage cg cb on (brightStage sc level p)

/-- PRE's result (R94). -/
def adjust (level : Byte) (on : Bool) (p : Pixel) : Pixel := adjustBy scale corrG corrB level on p

/-! ### MUX -/

/-- The channel order of a model (R106, R67; UNVERIFIED: log entry 7). -/
def muxOrder (m : Model) (p : Pixel) : Triple :=
  match m with
  | .variantA => ⟨p.g, p.r, p.b⟩
  | .variantB => ⟨p.r, p.g, p.b⟩

/-- The channel at position 0, 1 or 2 of the transmission order (R114). -/
def Triple.at (t : Triple) (p : Nat) : Byte :=
  match p with
  | 0 => t.c0
  | 1 => t.c1
  | _ => t.c2

/-! ### Sizes -/

/-- `GAP_A` (R4, R132): 3 words, derived from the source's example (DEDUCED: log entry 4). -/
def gapA : Nat := 3

/-- The reset gap of a model, in words (R132). -/
def gapOf : Model → Nat
  | .variantA => gapA
  | .variantB => Config.gapB

/-- The size invariant (R19, R133), exact in `Nat`. -/
def wordCountOf (leds : Count) (gap : Nat) : Nat := 1 + 6 * leds.toNat + gap

/-! ### The line -/

/-- The physical bits of a word in time order: bit 0 first (R41; UNVERIFIED: log entry 22). -/
def wordBits (w : Word) : List Bool := (List.range 16).map (fun j => w.getLsbD j)

/-! ### Pixel memory -/

/-- The place of a channel inside its pixel's cells. -/
def chanCode : Chan → Nat
  | .r => 0
  | .g => 1
  | .b => 2

/-- The key of a cell of pixel memory: one number for each handle, index below 65536 and channel. It is no byte
address: R29 fixes no layout (DESIGN CHOICE: log entry 8). -/
def pixKey (ref : Handle) (i : Nat) (c : Chan) : Nat := ref.toNat * 262144 + i * 4 + chanCode c

/-- A channel of a pixel. -/
def chanOf (p : Pixel) : Chan → Byte
  | .r => p.r
  | .g => p.g
  | .b => p.b

end Sys2Proof.Machine
end

