-- ==== Sys2Proof/Machine/Flags.lean ====
section
/-! DEFINITION. The status state. The hardware has no arithmetic condition codes (R28); what it has is `VALID`,
`FAULTED`, `IN_FLIGHT` and `RESULT`, and this file holds `RESULT`'s encoding, its writes, and the admission checks
that read the others. -/

namespace Sys2Proof.Machine

/-- The code of `RESULT.KIND` (R26, R72). -/
def ResultKind.toBits : ResultKind → BitVec 3
  | .ok => 0#3
  | .busRegFail => 1#3
  | .devRegFail => 2#3
  | .allocFail => 3#3
  | .transferError => 4#3
  | .sizeMismatch => 5#3
  | .illegalCmd => 7#3

/-- The 35-bit result word of R60 and R72, `KIND` above `CODE` (DEDUCED: log entry 17). -/
def Result.word (x : Result) : BitVec 35 := x.kind.toBits ++ x.code

/-- `return OK`: the command ends with `RESULT <- (OK, 0)` (R8, R26). -/
def finishOk (s : State) : State := { s with result := ⟨.ok, 0#32⟩ }

/-- The answer to an illegal command word (R76). -/
def answerIllegal (s : State) : State := { s with result := ⟨.illegalCmd, 0#32⟩ }

/-- The block takes a command only between commands (R69, R140; 93 U23). -/
def commandStop (s : State) : Option Refusal :=
  if s.phase = .idle then none else some .commandBusy

/-- What stops any legal command: one is executing, or `FAULTED = 1` (R165 (e)). -/
def legalStop (s : State) : Option Refusal :=
  if s.phase = .idle then (if s.faulted then some .blockFaulted else none) else some .commandBusy

/-- What stops FILL, FILL_ALL and UPDATE: as above, or no session (R140, R165 (b)). -/
def sessionStop (s : State) : Option Refusal :=
  match legalStop s with
  | some r => some r
  | none => if s.valid then none else some .noSession

/-- What stops the stages PRE and BUILD: a transfer in flight (R52), `FAULTED = 1`, no session (DESIGN CHOICE: log entry
12). -/
def stageStop (s : State) : Option Refusal :=
  if s.phase = .waiting then some .commandBusy
  else if s.faulted then some .blockFaulted
  else if s.valid then none
  else some .noSession

/-- A meaning guarded by an admission check: the refusal, or the next state. -/
def guarded (stop : Option Refusal) (t : State) : Host.Outcome State Fault Refusal :=
  match stop with
  | some r => .refused r
  | none => .next t

end Sys2Proof.Machine
end

