-- ==== Sys2Proof/Machine/Ops.lean ====
section
/-! DEFINITION. The shared operations: memories, pixel and TXB accesses, the platform's calls, taking a fault, the
steps of BUILD, the transport's moves, what step fetches. -/

namespace Sys2Proof.Machine

/-! ### Memories as lists of key and value in one canonical form -/

/-- What a key holds; none for an unlisted key, which is what an unwritten cell reads as. -/
def Memory.get? {α : Type} : List (Nat × α) → Nat → Option α
  | [], _ => none
  | (k', v) :: m, k => if k = k' then some v else Memory.get? m k

/-- Writing a key, keeping the keys strictly rising. -/
def Memory.put {α : Type} : List (Nat × α) → Nat → α → List (Nat × α)
  | [], k, v => [(k, v)]
  | (k', v') :: m, k, v =>
    if k < k' then (k, v) :: (k', v') :: m
    else if k = k' then (k, v) :: m
    else (k', v') :: Memory.put m k v

/-- Removing a key. -/
def Memory.del {α : Type} : List (Nat × α) → Nat → List (Nat × α)
  | [], _ => []
  | (k', v') :: m, k => if k = k' then m else (k', v') :: Memory.del m k

/-- The canonical form: keys strictly rising. An unlisted key reads as none and no entry can hold that, so the form's
second half (no entry equal to what an unlisted key reads as) holds of itself. -/
def Memory.wf {α : Type} : List (Nat × α) → Bool
  | [] => true
  | [_] => true
  | (a, _) :: (b, v) :: m => decide (a < b) && Memory.wf ((b, v) :: m)

/-! ### The host's pixel memories -/

/-- What an unlisted handle names: memory long enough for every LED count a command can carry, the host's, as first
allocated (R191 `PIXOWN = caller`; premise `PixBufferOk` of 92; DESIGN CHOICE: log entry 8). -/
def HostBuf.fresh : HostBuf := ⟨65535#16, .caller, 0⟩

/-- The pixel memory a handle names. -/
def bufAt (ref : Handle) (s : State) : HostBuf := (Memory.get? s.bufs ref.toNat).getD HostBuf.fresh

/-- Changing what a handle names; an entry equal to the unlisted one is removed. -/
def setBuf (ref : Handle) (x : HostBuf) (s : State) : State :=
  { s with bufs := if x = HostBuf.fresh then Memory.del s.bufs ref.toNat else Memory.put s.bufs ref.toNat x }

/-- The canonical form of the table of pixel memories: keys strictly rising, no entry equal to the unlisted one. -/
def bufsWf (m : List (Nat × HostBuf)) : Bool :=
  Memory.wf m && m.all (fun e => decide (e.2 ≠ HostBuf.fresh))

/-- `MemRead(PIX:i.c, 1)` in the memory `ref` names (R7): what was last written there, else a value nothing fixes
(R29, 93 U6). -/
def readChan (ref : Handle) (i : Nat) (c : Chan) (s : State) : Byte :=
  (Memory.get? s.pix (pixKey ref i c)).getD (Config.freeChannel (bufAt ref s).gen (pixKey ref i c))

/-- `MemWrite(PIX:i.c, 1, v)` (R7). -/
def writeChan (ref : Handle) (i : Nat) (c : Chan) (v : Byte) (s : State) : State :=
  { s with pix := Memory.put s.pix (pixKey ref i c) v }

/-- The three reads of a pixel (R45). -/
def readPixel (ref : Handle) (i : Nat) (s : State) : Pixel :=
  { r := readChan ref i .r s, g := readChan ref i .g s, b := readChan ref i .b s }

/-- The three writes of a pixel (R45). -/
def writePixel (ref : Handle) (i : Nat) (p : Pixel) (s : State) : State :=
  writeChan ref i .b p.b (writeChan ref i .g p.g (writeChan ref i .r p.r s))

/-- FILL's loop: one colour into each pixel of `[lo, hi)` of the session's buffer; empty when `lo ≥ hi` (R141). -/
def fillPixels (p : Pixel) (lo hi : Nat) (s : State) : State :=
  (List.range' lo (hi - lo)).foldl (fun s i => writePixel s.pixref i p s) s

/-! ### TXB -/

/-- `MemRead(TXB:k, 2)` (R7): what BUILD wrote there, else a value nothing fixes (R30, 93 U7). -/
def readTxb (k : Nat) (s : State) : Word := (Memory.get? s.txb k).getD (Config.freeWord k)

/-- `MemWrite(TXB:k, 2, w)` (R7). TXB has no word at `k ≥ WORD_COUNT`, so nothing is written there (DESIGN CHOICE: log entry 11). -/
def writeTxb (k : Nat) (w : Word) (s : State) : State :=
  if k < s.wordCount then { s with txb := Memory.put s.txb k w } else s

/-- One word of the sequential fill: `TXB[WP] <- w`, then `WP` grows by one (R114). -/
def pushTxb (w : Word) (s : State) : State :=
  let t := writeTxb s.wp w s
  { t with wp := s.wp + 1 }

/-- `bits(TXB)`: the physical bits of a transfer, words in index order and bit 0 of each first (R42, R123). -/
def frameBits (s : State) : List Bool :=
  (List.range s.wordCount).flatMap (fun k => wordBits (readTxb k s))

/-- The transfer length in physical bits (R121). -/
def transferBits (s : State) : Nat := 16 * s.wordCount

/-! ### The platform's calls (R176 to R178): each asks, records the call, and takes the next answer (DESIGN CHOICE: log
entry 13) -/

/-- `platform.bus_register(pin)` (R134, R177). -/
def busAnswer (s : State) : RegAnswer := s.plat.bus.headD (Config.freeBus s.plat.taken)

def callBus (pin : Byte) (s : State) : State :=
  { s with
    calls := s.calls ++ [.busRegister pin]
    plat := { s.plat with bus := s.plat.bus.tail, taken := s.plat.taken + 1 } }

/-- `platform.dev_register()` (R134, R177). -/
def devAnswer (s : State) : RegAnswer := s.plat.dev.headD (Config.freeDev s.plat.taken)

def callDev (s : State) : State :=
  { s with
    calls := s.calls ++ [.devRegister]
    plat := { s.plat with dev := s.plat.dev.tail, taken := s.plat.taken + 1 } }

/-- `platform.alloc_dma(bytes)` (R133, R176). -/
def allocAnswer (s : State) : AllocAnswer := s.plat.alloc.headD (Config.freeAlloc s.plat.taken)

def callAlloc (bytes : Nat) (s : State) : State :=
  { s with
    calls := s.calls ++ [.allocDma bytes]
    plat := { s.plat with alloc := s.plat.alloc.tail, taken := s.plat.taken + 1 } }

/-- The transport's next move (R124, R177; DESIGN CHOICE: log entries 13, 14). -/
def txAnswer (s : State) : TxAnswer := s.plat.tx.headD (Config.freeTx s.plat.taken)

def takeTx (s : State) : State :=
  { s with plat := { s.plat with tx := s.plat.tx.tail, taken := s.plat.taken + 1 } }

/-! ### Taking a fault -/

/-- The faults of R160 to R164, with what each records. INIT's three name the pixel memory INIT was given. -/
inductive Raised where
  | busRegFail (ref : Handle) (e : ErrCode)
  | devRegFail (ref : Handle) (e : ErrCode)
  | allocFail (ref : Handle)
  | transferError (e : ErrCode)
  | sizeMismatch
  deriving DecidableEq, Repr

/-- What a fault leaves in `RESULT` (R72, R160 to R164): the platform's code unchanged, or 0. -/
def Raised.result : Raised → Result
  | .busRegFail _ e => ⟨.busRegFail, e⟩
  | .devRegFail _ e => ⟨.devRegFail, e⟩
  | .allocFail _ => ⟨.allocFail, 0#32⟩
  | .transferError e => ⟨.transferError, e⟩
  | .sizeMismatch => ⟨.sizeMismatch, 0#32⟩

/-- `RELEASE_ON_INIT_FAIL` (92 D13; R170): true, the behaviour R170 states (UNVERIFIED: log entry 9). -/
def releaseOnInitFail : Bool := true

/-- `PIXOWN(ref) <- released` (R33 (c), R170). -/
def releasePix (ref : Handle) (s : State) : State :=
  if releaseOnInitFail then setBuf ref ⟨(bufAt ref s).len, .released, (bufAt ref s).gen⟩ s else s

/-- Fault entry, for every fault: `RESULT` gets the fault's kind and code. An INIT fault leaves no session and releases
the pixel memory (R170); a transfer error ends the transfer and leaves the session valid (R171); a size mismatch sets
`FAULTED` (R172). The sequencer is idle afterwards. Nothing else changes, and there is no return from a fault (R173). -/
def raise (f : Raised) (s : State) : State :=
  let t : State := { s with result := f.result, phase := .idle }
  match f with
  | .busRegFail ref _ => releasePix ref { t with valid := false }
  | .devRegFail ref _ => releasePix ref { t with valid := false }
  | .allocFail ref => releasePix ref { t with valid := false }
  | .transferError _ => { t with inFlight := false, sent := 0 }
  | .sizeMismatch => { t with faulted := true }

/-! ### The stages -/

/-- `TABLE[n]` (R31, R105): one lookup, to TABLE's output. -/
def lookup (n : Nibble) (s : State) : State := { s with lutOut := table n }

/-- ENC on a channel byte (R100): two lookups, high nibble first. -/
def encStage (v : Byte) (s : State) : State :=
  let s1 := lookup (hiNibble v) s
  let s2 := lookup (loNibble v) s1
  { s2 with encOut := ⟨s1.lutOut, s2.lutOut⟩ }

/-- MUX on an adjusted pixel (R106). -/
def muxStage (p : Pixel) (s : State) : State := { s with muxOut := muxOrder s.model p }

/-- Whether any stage of PRE is enabled (R95). -/
def preActive (s : State) : Bool := s.brightness != 255#8 || s.correction

/-- PRE on pixel `i` (R90): read, adjust, write back in place when a stage is enabled (R95), and leave the adjusted
channels in `r`, `g`, `b` (R10; log entries 12, 21). -/
def preStage (i : Nat) (s : State) : State :=
  let q := adjust s.brightness s.correction (readPixel s.pixref i s)
  let t := if preActive s then writePixel s.pixref i q s else s
  { t with work := q }

/-! ### BUILD (R110) -/

/-- The clear (R111): every word of TXB is written with zero. -/
def clearTxb (s : State) : State := (List.range s.wordCount).foldl (fun s k => writeTxb k 0#16 s) s

/-- ENC on one channel and its two words to TXB, high nibble first (R65, R110). -/
def emitByte (v : Byte) (s : State) : State :=
  let t := encStage v s
  pushTxb t.encOut.w1 (pushTxb t.encOut.w0 t)

/-- One turn of the pixel loop (R113): PRE, MUX, then the three channels in MUX's order. -/
def pixelTurn (s : State) (i : Nat) : State :=
  let a := preStage i { s with pi := i }
  let t := muxStage a.work a
  emitByte t.muxOut.c2 (emitByte t.muxOut.c1 (emitByte t.muxOut.c0 t))

/-- The pixel loop, in buffer order (R113). -/
def pixelLoop (s : State) : State := (List.range s.leds.toNat).foldl pixelTurn s

/-- The gap (R115). -/
def gapLoop (s : State) : State := (List.range s.resetGap).foldl (fun s _ => pushTxb 0#16 s) s

/-- BUILD up to its size check: clear, guard (R112), pixel loop, gap. -/
def buildFrame (s : State) : State :=
  let t := clearTxb { s with phase := .building }
  gapLoop (pixelLoop (pushTxb 0#16 { t with wp := 0 }))

/-- The size check's comparison (R116). -/
def sizeOk (s : State) : Bool := s.wp == s.wordCount

/-! ### TX (R120) -/

/-- Submission (R122): the buffer and its length go to the transport, and the wait begins. -/
def submitTx (s : State) : State :=
  { s with inFlight := true, phase := .waiting, sent := 0, calls := s.calls ++ [.transmit (transferBits s)] }

/-- The next bits of the transfer go on the line, at most `n` (R32, R123). -/
def clockOut (n : Nat) (s : State) : State :=
  { s with
    line := s.line ++ ((frameBits s).drop s.sent).take n
    sent := s.sent + (((frameBits s).drop s.sent).take n).length }

/-- One move of the transport during the wait (R124). `clock`: no answer yet. `done`: all of `bits(TXB)` is on the line
(R123) and UPDATE returns OK (R147). `fault e n`: some first part of `bits(TXB)` is (R127), and the fault is taken
(R125, R171). -/
def transportMove (s : State) : State :=
  let t := takeTx s
  match txAnswer s with
  | .clock n => clockOut n t
  | .done =>
    finishOk { clockOut (transferBits s) t with inFlight := false, phase := .idle, sent := 0 }
  | .fault e n => raise (.transferError e) (clockOut n t)

/-! ### INIT (R130) -/

/-- INIT's writes on success (R131): the six session registers, the TXB allocation and `VALID`. TXB's words hold
nothing fixed yet (R30). -/
def openSession (pin : Byte) (m : Model) (leds : Count) (ref : Handle) (s : State) : State :=
  finishOk
    { s with
      pin := pin, model := m, leds := leds, pixref := ref
      resetGap := gapOf m
      wordCount := wordCountOf leds (gapOf m)
      txbBytes := some (2 * wordCountOf leds (gapOf m))
      txb := []
      valid := true }

/-- INIT's three platform steps in order; the first failure ends it (R134, R168; UNVERIFIED: log entry 19). -/
def initSession (pin : Byte) (m : Model) (leds : Count) (ref : Handle) (s : State) : State :=
  let s1 := callBus pin s
  match busAnswer s with
  | .fail e => raise (.busRegFail ref e) s1
  | .ok =>
    let s2 := callDev s1
    match devAnswer s1 with
    | .fail e => raise (.devRegFail ref e) s2
    | .ok =>
      let s3 := callAlloc (2 * wordCountOf leds (gapOf m)) s2
      match allocAnswer s2 with
      | .fail => raise (.allocFail ref) s3
      | .ok => openSession pin m leds ref s3

/-! ### What the next step runs -/

/-- The outside world's next move, taken off the port. -/
def popPort (s : State) : State := { s with port := s.port.tail }

end Sys2Proof.Machine
end

