-- ==== Sys2Proof/Machine/Build.lean ====
section
/-! DEFINITION. Family: BUILD, the Transmission Buffer Builder (43_build.md). -/

namespace Sys2Proof.Machine

/-- BUILD with its size check (R110, R116): the frame stands and `PHASE` is BUILDING, ready for TX, or the size
mismatch is taken (R172). -/
def runBuild (s : State) : State :=
  let t := buildFrame s
  if sizeOk t then t else raise .sizeMismatch t

/-- BUILD (R110): it needs a session, and TXB is never written while a transfer is in flight (R52). -/
def execBuild (s : State) : Host.Outcome State Fault Refusal := guarded (stageStop s) (runBuild s)

end Sys2Proof.Machine
end

