-- ==== Sys2Proof/Machine/Encode.lean ====
section
/-! DEFINITION. Family: ENC, TABLE and MUX (42_encode.md). -/

namespace Sys2Proof.Machine

/-- MUX (R106). It reads `MODEL`, which is unreadable without a session (R14). -/
def execMux (p : Pixel) (s : State) : Host.Outcome State Fault Refusal :=
  if s.valid then .next (muxStage p s) else .refused .noSession

/-- ENC (R100): a pure function, admitted always. -/
def execEnc (v : Byte) (s : State) : Host.Outcome State Fault Refusal := .next (encStage v s)

/-- TABLE's sixteen rows (R105), one lookup each. -/
def execLut0 (s : State) : Host.Outcome State Fault Refusal := .next (lookup 0#4 s)
def execLut1 (s : State) : Host.Outcome State Fault Refusal := .next (lookup 1#4 s)
def execLut2 (s : State) : Host.Outcome State Fault Refusal := .next (lookup 2#4 s)
def execLut3 (s : State) : Host.Outcome State Fault Refusal := .next (lookup 3#4 s)
def execLut4 (s : State) : Host.Outcome State Fault Refusal := .next (lookup 4#4 s)
def execLut5 (s : State) : Host.Outcome State Fault Refusal := .next (lookup 5#4 s)
def execLut6 (s : State) : Host.Outcome State Fault Refusal := .next (lookup 6#4 s)
def execLut7 (s : State) : Host.Outcome State Fault Refusal := .next (lookup 7#4 s)
def execLut8 (s : State) : Host.Outcome State Fault Refusal := .next (lookup 8#4 s)
def execLut9 (s : State) : Host.Outcome State Fault Refusal := .next (lookup 9#4 s)
def execLutA (s : State) : Host.Outcome State Fault Refusal := .next (lookup 10#4 s)
def execLutB (s : State) : Host.Outcome State Fault Refusal := .next (lookup 11#4 s)
def execLutC (s : State) : Host.Outcome State Fault Refusal := .next (lookup 12#4 s)
def execLutD (s : State) : Host.Outcome State Fault Refusal := .next (lookup 13#4 s)
def execLutE (s : State) : Host.Outcome State Fault Refusal := .next (lookup 14#4 s)
def execLutF (s : State) : Host.Outcome State Fault Refusal := .next (lookup 15#4 s)

end Sys2Proof.Machine
end

