-- ==== Sys2Proof/Machine/HostOps.lean ====
section
/-! DEFINITION. Family: the host operations FILL, FILL_ALL, SET_BRIGHTNESS, SET_COLOR_CORRECTION, UPDATE, the illegal
command, and the host's own accesses to pixel memory (46_host_ops.md). -/

namespace Sys2Proof.Machine

/-- FILL (R141): refused when an index is beyond `LEDS`, else every pixel of `[lo, hi)` takes the colour as given. -/
def execFill (p : Pixel) (lo hi : Count) (s : State) : Host.Outcome State Fault Refusal :=
  match sessionStop s with
  | some r => .refused r
  | none =>
    if s.leds < lo ∨ s.leds < hi then .refused .fillRange
    else .next (finishOk (fillPixels p lo.toNat hi.toNat s))

/-- FILL_ALL (R142): FILL over `[0, LEDS)`; it can never be out of range. -/
def execFillAll (p : Pixel) (s : State) : Host.Outcome State Fault Refusal :=
  guarded (sessionStop s) (finishOk (fillPixels p 0 s.leds.toNat s))

/-- SET_BRIGHTNESS (R143), admitted with or without a session (R145). -/
def execSetBrightness (level : Byte) (s : State) : Host.Outcome State Fault Refusal :=
  guarded (legalStop s) (finishOk { s with brightness := level })

/-- SET_COLOR_CORRECTION (R144), admitted with or without a session (R145). -/
def execSetColorCorrection (en : Bool) (s : State) : Host.Outcome State Fault Refusal :=
  guarded (legalStop s) (finishOk { s with correction := en })

/-- UPDATE up to the transport's answer (R147): BUILD, and unless its size check failed, TX's submission. The wait and
the way UPDATE ends are TX's moves in the following steps (R124, R148; DEDUCED: log entry 15). -/
def runUpdate (s : State) : State :=
  let t := buildFrame s
  if sizeOk t then submitTx t else raise .sizeMismatch t

/-- UPDATE (R147). -/
def execUpdate (s : State) : Host.Outcome State Fault Refusal := guarded (sessionStop s) (runUpdate s)

/-- An illegal command word (R76): only `RESULT` changes, whatever `VALID` and `FAULTED` are, since decoding comes
before admission (R169). -/
def execIllegalCmd (_w : Command) (s : State) : Host.Outcome State Fault Refusal :=
  guarded (commandStop s) (answerIllegal s)

/-! ### The host's own accesses (R150, R151): memory accesses, not commands; they write no `RESULT` -/

/-- When the host may not touch channel cells of pixel `i` of a memory: during an UPDATE (R165 (f)), after an INIT
fault released the memory (R165 (d)), or beyond the buffer (R165 (g)), whose bound is `LEDS` for the session's buffer
and the memory's own length otherwise (R150). -/
def hostStop (ref : Handle) (i : Count) (s : State) : Option Refusal :=
  if s.phase ≠ .idle then some .pixBusy
  else if (bufAt ref s).own = .released then some .pixReleased
  else if s.valid ∧ ref = s.pixref ∧ s.leds ≤ i then some .pixIndex
  else if (bufAt ref s).len ≤ i then some .pixIndex
  else none

/-- The host's store to one channel (R150). -/
def hostStore (ref : Handle) (i : Count) (c : Chan) (v : Byte) (s : State) : Host.Outcome State Fault Refusal :=
  guarded (hostStop ref i s) (writeChan ref i.toNat c v s)

/-- The host's load of one channel (R151): it sees what was last written there. -/
def hostLoad (ref : Handle) (i : Count) (c : Chan) (s : State) : Host.Outcome State Fault Refusal :=
  guarded (hostStop ref i s) { s with hostByte := readChan ref i.toNat c s }

/-- When the host may not allocate, resize or free a memory: during an UPDATE, after an INIT fault released it (R205),
or while it is the session's pixel buffer (R194, R165 (h)). -/
def resizeStop (ref : Handle) (s : State) : Option Refusal :=
  if s.phase ≠ .idle then some .pixBusy
  else if (bufAt ref s).own = .released then some .pixReleased
  else if s.valid ∧ ref = s.pixref then some .pixBufferMoved
  else none

/-- The keys of a handle's cells begin with the handle's number. -/
def ownsKey (ref : Handle) (k : Nat) : Bool := k / 262144 == ref.toNat

/-- The host allocates, resizes or frees a memory (R194): its length is the new one and its contents are unspecified
anew (DESIGN CHOICE: log entry 8). -/
def hostResize (ref : Handle) (len : Count) (s : State) : Host.Outcome State Fault Refusal :=
  guarded (resizeStop ref s)
    { setBuf ref { len := len, own := .caller, gen := (bufAt ref s).gen + 1 } s with
      pix := s.pix.filter (fun e => !ownsKey ref e.1) }

end Sys2Proof.Machine
end

