-- ==== Sys2Proof/Machine/Init.lean ====
section
/-! DEFINITION. Family: INIT, Session Initialization (45_init.md). -/

namespace Sys2Proof.Machine

/-- When INIT has no meaning (R137): (a) a session is valid, (b) the pixel memory was released, (c) `FAULTED = 1`
(checked first, with the port's rule), (d) the pixel memory is shorter than `led_count`. -/
def initStop (leds : Count) (ref : Handle) (s : State) : Option Refusal :=
  match legalStop s with
  | some r => some r
  | none =>
    if s.valid then some .sessionValid
    else if (bufAt ref s).own = .released then some .pixReleased
    else if (bufAt ref s).len < leds then some .pixBufferShort
    else none

/-- INIT (R130 to R138). -/
def execInit (pin : Byte) (m : Model) (leds : Count) (ref : Handle) (s : State) : Host.Outcome State Fault Refusal :=
  guarded (initStop leds ref s) (initSession pin m leds ref s)

end Sys2Proof.Machine
end

