-- ==== Sys2Proof/Machine/Preprocess.lean ====
section
/-! DEFINITION. Family: PRE, the Color Preprocessor (41_preprocess.md). -/

namespace Sys2Proof.Machine

/-- PRE on pixel `i` (R90 to R95). It needs a session, no transfer in flight, and `i < LEDS` (R7: an index outside the
space has no meaning). -/
def execPre (i : Count) (s : State) : Host.Outcome State Fault Refusal :=
  match stageStop s with
  | some r => .refused r
  | none => if i < s.leds then .next (preStage i.toNat s) else .refused .pixIndex

end Sys2Proof.Machine
end

