-- ==== Sys2Proof/Machine/Transmit.lean ====
section
/-! DEFINITION. Family: TX, the Transmitter (44_transmit.md). -/

namespace Sys2Proof.Machine

/-- TX (R120). After a BUILD that passed its size check it submits the buffer (R122); while it waits it takes the
transport's next move (R124), and there is no timeout (R126). It runs nowhere else (R120, R207). -/
def execTx (s : State) : Host.Outcome State Fault Refusal :=
  match s.phase with
  | .idle => .refused .txNoFrame
  | .building =>
    match stageStop s with
    | some r => .refused r
    | none => if sizeOk s then .next (submitTx s) else .refused .txNoFrame
  | .waiting => .next (transportMove s)

end Sys2Proof.Machine
end

