-- ==== Sys2Proof/Machine/Dispatch.lean ====
section
/-! DEFINITION. One arm per operation, each one call of its meaning. -/

namespace Sys2Proof.Machine

def exec (i : Instr) (s : State) : Host.Outcome State Fault Refusal :=
  match i with
  | .init pin m leds ref => Sys2Proof.Machine.execInit pin m leds ref s
  | .fill p lo hi => Sys2Proof.Machine.execFill p lo hi s
  | .fillAll p => Sys2Proof.Machine.execFillAll p s
  | .setBrightness level => Sys2Proof.Machine.execSetBrightness level s
  | .setColorCorrection en => Sys2Proof.Machine.execSetColorCorrection en s
  | .update => Sys2Proof.Machine.execUpdate s
  | .pre k => Sys2Proof.Machine.execPre k s
  | .mux p => Sys2Proof.Machine.execMux p s
  | .enc v => Sys2Proof.Machine.execEnc v s
  | .build => Sys2Proof.Machine.execBuild s
  | .tx => Sys2Proof.Machine.execTx s
  | .lut0 => Sys2Proof.Machine.execLut0 s
  | .lut1 => Sys2Proof.Machine.execLut1 s
  | .lut2 => Sys2Proof.Machine.execLut2 s
  | .lut3 => Sys2Proof.Machine.execLut3 s
  | .lut4 => Sys2Proof.Machine.execLut4 s
  | .lut5 => Sys2Proof.Machine.execLut5 s
  | .lut6 => Sys2Proof.Machine.execLut6 s
  | .lut7 => Sys2Proof.Machine.execLut7 s
  | .lut8 => Sys2Proof.Machine.execLut8 s
  | .lut9 => Sys2Proof.Machine.execLut9 s
  | .lutA => Sys2Proof.Machine.execLutA s
  | .lutB => Sys2Proof.Machine.execLutB s
  | .lutC => Sys2Proof.Machine.execLutC s
  | .lutD => Sys2Proof.Machine.execLutD s
  | .lutE => Sys2Proof.Machine.execLutE s
  | .lutF => Sys2Proof.Machine.execLutF s
  | .illegalCmd w => Sys2Proof.Machine.execIllegalCmd w s

end Sys2Proof.Machine
end

