-- ==== Sys2Proof/Machine/Step.lean ====
section
/-! DEFINITION. One step: the host's next move while the block is idle, TX's while it is not. -/

namespace Sys2Proof.Machine

/-- A move of the outside world, the port already advanced. -/
def runMove (m : HostMove) (s : State) : Host.Outcome State Fault Refusal :=
  match m with
  | .fetch src => exec (decode src) s
  | .store ref i c v => hostStore ref i c v s
  | .load ref i c => hostLoad ref i c s
  | .resize ref len => hostResize ref len s

/-- The step. An idle block takes the host's next move, or waits where there is none (R192). While a command runs the
host has no move (R49, R199), and the block's next move is TX's: submission after BUILD, then the wait for the transport
(R124; DESIGN CHOICE: log entry 16). -/
def step (s : State) : Host.Outcome State Fault Refusal :=
  match s.phase with
  | .idle =>
    match s.port with
    | [] => .next s
    | m :: _ => runMove m (popPort s)
  | .building => exec .tx s
  | .waiting => exec .tx s

/-- The state with an opcode-table word as the next thing the block decodes: it stands first on the port, and the block
is between commands, as it must be to take one (R69, R140; log entries 16, 26). -/
def State.withFetchWord (s : State) (nbits w : Nat) : State :=
  { s with phase := .idle, inFlight := false, port := .fetch (tableSource nbits w) :: s.port }

end Sys2Proof.Machine
end

