-- ==== Sys2Proof/Safety.lean ====
section
/-! DEFINITION. What counts as a sound state and a safe run, and the words the statements are made of. -/

namespace Sys2Proof.Machine

/-- The block can take a legal command: none is running and it is not `FAULTED` (R140, R145). -/
def Open (s : State) : Prop := s.phase = .idle ∧ s.faulted = false

/-- The block can take FILL, FILL_ALL or UPDATE (R140). -/
def Ready (s : State) : Prop := Open s ∧ s.valid = true

/-- A stage of UPDATE can run: a session, no fault, no transfer in flight (R52, R147). -/
def StageReady (s : State) : Prop := s.phase ≠ .waiting ∧ s.faulted = false ∧ s.valid = true

/-- The size invariant holds of the session registers (R19). -/
def Sized (s : State) : Prop := s.wordCount = wordCountOf s.leds s.resetGap

/-- What the host must hold for INIT to be admitted (R137): memory of its own, long enough. -/
def OwnsBuffer (ref : Handle) (leds : Count) (s : State) : Prop :=
  (bufAt ref s).own = .caller ∧ leds ≤ (bufAt ref s).len

/-- The adjusted channels of pixel `i` of the session's buffer (R94). -/
def adjusted (s : State) (i : Nat) : Pixel := adjust s.brightness s.correction (readPixel s.pixref i s)

/-- Byte `p` of pixel `i` in transmission order, after PRE and MUX (R67, R106). -/
def sentByte (s : State) (i p : Nat) : Byte := (muxOrder s.model (adjusted s i)).at p

/-- `t`'s TXB is the frame of `s` (R66, R114): the guard, six words a pixel, the gap. -/
structure FrameOf (s t : State) : Prop where
  guardWord : readTxb 0 t = 0#16
  highWord : ∀ i < s.leds.toNat, ∀ p < 3, readTxb (1 + 6 * i + 2 * p) t = table (hiNibble (sentByte s i p))
  lowWord : ∀ i < s.leds.toNat, ∀ p < 3, readTxb (1 + 6 * i + 2 * p + 1) t = table (loNibble (sentByte s i p))
  gapWords : ∀ j < s.resetGap, readTxb (1 + 6 * s.leds.toNat + j) t = 0#16

/-- Pixel memory changes in one pixel range of one handle only: every channel of every other pixel of every memory
reads in `t` as in `s`. -/
def PixelsKeptOutside (ref : Handle) (lo hi : Nat) (s t : State) : Prop :=
  ∀ (h : Handle) (i : Count) (c : Chan), ¬ (h = ref ∧ lo ≤ i.toNat ∧ i.toNat < hi) →
    readChan h i.toNat c t = readChan h i.toNat c s

/-- `t`'s pixel memory is `s`'s with PRE run once on every pixel of the session (R95, R113). -/
structure PixelsAdjusted (s t : State) : Prop where
  inside : ∀ i < s.leds.toNat, readPixel s.pixref i t = adjusted s i
  outside : PixelsKeptOutside s.pixref 0 s.leds.toNat s t

/-- `t` differs from `s` at most in what UPDATE's stages write: `PI`, `WP`, the stage latches, pixel memory and TXB.
Every session register, setting, flag, `RESULT`, `PHASE`, `LINE`, the table of pixel memories, the calls and the inputs
are the same. -/
def StagesOnly (s t : State) : Prop :=
  t = { s with
    pi := t.pi, wp := t.wp, work := t.work, muxOut := t.muxOut, encOut := t.encOut, lutOut := t.lutOut
    pix := t.pix, txb := t.txb }

/-- `t` differs from `s` at most in pixel memory, `RESULT` apart, which is `(OK, 0)`: what FILL may change (R141). -/
def FillOnly (s t : State) : Prop := t = { s with pix := t.pix, result := ⟨.ok, 0#32⟩ }

/-- The transport's moves `ns`, all before its answer (R124). -/
def clocks (ns : List Nat) : List TxAnswer := ns.map TxAnswer.clock

/-- Both stages of PRE are off (R91, R93). -/
def PreOff (s : State) : Prop := s.brightness = 255#8 ∧ s.correction = false

/-- The invariant of the machine. -/
structure Sound (s : State) : Prop where
  /-- Pixel memory, TXB and the table of pixel memories are in canonical form. -/
  pixWf : Memory.wf s.pix = true
  txbWf : Memory.wf s.txb = true
  tableWf : bufsWf s.bufs = true
  /-- Nothing stands outside TXB (R7, R30), and without a session there is no TXB (R20). -/
  txbInside : ∀ e ∈ s.txb, e.1 < s.wordCount
  txbBytes : s.txbBytes = if s.valid then some (2 * s.wordCount) else none
  noTxb : s.valid = false → s.txb = []
  /-- `FAULTED` stays 0 in every run (R25). -/
  alive : s.faulted = false
  /-- `IN_FLIGHT` is 1 exactly during the wait (R27). -/
  flight : s.inFlight = true ↔ s.phase = .waiting
  /-- Outside IDLE an UPDATE runs: a session exists and BUILD has filled TXB (R11, R116). -/
  busy : s.phase ≠ .idle → s.valid = true ∧ s.wp = s.wordCount
  /-- The derived session registers are derived (R18, R19). -/
  gap : s.valid = true → s.resetGap = gapOf s.model
  sized : s.valid = true → Sized s
  /-- The session's pixel memory is the host's and long enough (R33, R194). -/
  owned : s.valid = true → OwnsBuffer s.pixref s.leds s
  /-- A transfer has put at most its own bits on the line (R123); outside the wait there is none. -/
  progress : s.sent ≤ transferBits s
  quiet : s.phase ≠ .waiting → s.sent = 0
  /-- `RESULT.CODE` is 0 but for the kinds that carry the platform's code (R26). -/
  codeZero : s.result.kind = .ok ∨ s.result.kind = .allocFail ∨ s.result.kind = .sizeMismatch ∨
    s.result.kind = .illegalCmd → s.result.code = 0#32

/-- The stages of UPDATE, which have no command word (R71). -/
def internalStage : Instr → Bool
  | .pre _ => true
  | .mux _ => true
  | .enc _ => true
  | .build => true
  | .tx => true
  | .init _ _ _ _ => false
  | .fill _ _ _ => false
  | .fillAll _ => false
  | .setBrightness _ => false
  | .setColorCorrection _ => false
  | .update => false
  | .lut0 => false
  | .lut1 => false
  | .lut2 => false
  | .lut3 => false
  | .lut4 => false
  | .lut5 => false
  | .lut6 => false
  | .lut7 => false
  | .lut8 => false
  | .lut9 => false
  | .lutA => false
  | .lutB => false
  | .lutC => false
  | .lutD => false
  | .lutE => false
  | .lutF => false
  | .illegalCmd _ => false

end Sys2Proof.Machine
end

