-- ==== Sys2Proof/Certificates/Slice0/Obligations.lean ====
section
/-! DEFINITION. The statements for the provers. -/

open Sys2Proof Sys2Proof.Machine

/-! ### Reset and the invariant -/

/-- What R191 gives for reset: no session and no TXB, `BRIGHTNESS` 255, `RESULT` `(OK, 0)`, nothing faulted or in
flight, IDLE, every pixel memory the caller's, an empty `LINE`. `CORRECTION` is the open parameter. -/
def Obligations.ResetLeavesStatedValues : Prop :=
  State.reset.valid = false ∧ State.reset.txbBytes = none ∧ State.reset.brightness = 255#8 ∧
  State.reset.correction = Config.corrReset ∧ State.reset.result = ⟨.ok, 0#32⟩ ∧ State.reset.faulted = false ∧
  State.reset.inFlight = false ∧ State.reset.phase = .idle ∧ State.reset.line = [] ∧
  ∀ ref, (bufAt ref State.reset).own = .caller

/-- The invariant holds right after reset. -/
def Obligations.ResetMeetsInvariant : Prop := Sound State.reset

/-- Every step keeps the invariant: canonical memories, nothing outside TXB, the derived session registers, `FAULTED`
0, `IN_FLIGHT` in step with WAITING, BUILD complete before every wait, the session's memory the host's. -/
def Obligations.StepKeepsInvariant : Prop :=
  ∀ s t : State, Sound s → step s = .next t → Sound t

/-! ### Encoding -/

/-- Decoding what the encoder writes gives the operation back, for every operand value and every reserved word. -/
def Obligations.DecodeUndoesEncode : Prop :=
  ∀ (i : Instr) (src : Source), i.wf = true → encode i = some src → decode src = i

/-- Every source means what it decodes to: encoding it gives the source back, and it is well formed. -/
def Obligations.EncodeUndoesDecode : Prop :=
  ∀ src : Source, encode (decode src) = some src ∧ (decode src).wf = true

/-- No word matches two rows of R70's match and mask table. -/
def Obligations.CommandRowsAreDisjoint : Prop :=
  ∀ w : Command, (opRows.filter (fun row => row.hits w)).length ≤ 1

/-- The decoder rejects exactly the reserved words of R74 to R76, told there by their fields. -/
def Obligations.ReservedWordsAreIllegal : Prop :=
  ∀ w : Command, decodeCommand w = .illegalCmd w ↔ reservedWord w = true

/-- Words written out from R70's columns (the spec's own layout, 92 D2). -/
def Obligations.WrittenWordsDecode : Prop :=
  decode (.command 0x0102000003000001#64) = .init 2#8 .variantA 3#16 1#24 ∧
  decode (.command 0x020000FF00020003#64) = .fill ⟨0#8, 0#8, 255#8⟩ 2#16 3#16 ∧
  decode (.command 0x03C8643200000000#64) = .fillAll ⟨200#8, 100#8, 50#8⟩ ∧
  decode (.command 0x0480000000000000#64) = .setBrightness 128#8 ∧
  decode (.command 0x0501000000000000#64) = .setColorCorrection true ∧
  decode (.command 0x0600000000000000#64) = .update ∧
  decode (.command 0x0502000000000000#64) = .illegalCmd 0x0502000000000000#64 ∧
  decode (.tableAddr 5#4) = .lut5

/-- The result register's code: three bits of `KIND` as R72 lists them, above the 32 of `CODE` (the codes are the
spec's decision, 92 D14; the packing is log entry 17). -/
def Obligations.ResultWordHasTheListedCodes : Prop :=
  ∀ code : ErrCode,
    (Result.word ⟨.ok, code⟩).toNat = code.toNat ∧ (Result.word ⟨.busRegFail, code⟩).toNat = 1 * 2 ^ 32 + code.toNat ∧
    (Result.word ⟨.devRegFail, code⟩).toNat = 2 * 2 ^ 32 + code.toNat ∧
    (Result.word ⟨.allocFail, code⟩).toNat = 3 * 2 ^ 32 + code.toNat ∧
    (Result.word ⟨.transferError, code⟩).toNat = 4 * 2 ^ 32 + code.toNat ∧
    (Result.word ⟨.sizeMismatch, code⟩).toNat = 5 * 2 ^ 32 + code.toNat ∧
    (Result.word ⟨.illegalCmd, code⟩).toNat = 7 * 2 ^ 32 + code.toNat

/-! ### Steps -/

/-- An idle block runs the operation its next source decodes to, the list of inputs advanced and nothing else changed;
and so it does with an opcode-table word put where it looks. The hardware has a command port (R69) and no list: that the
outside world's moves stand in `State.port`, and that withFetchWord makes the block idle with nothing in flight, is the
model's choice (DESIGN CHOICE, log entry 16); so is a table address as a source, which the host cannot give (R71;
DESIGN CHOICE, log entry 26). -/
def Obligations.StepRunsTheDecodedOperation : Prop :=
  (∀ (s : State) (src : Source) (rest : List HostMove), s.phase = .idle → s.port = .fetch src :: rest →
    step s = exec (decode src) { s with port := rest }) ∧
  (∀ (s : State) (nbits w : Nat) (i : Instr), decodeTableWord nbits w = some i →
    step (s.withFetchWord nbits w) = exec i { s with phase := .idle, inFlight := false })

/-- An idle block waits for its next command (R192) and the host has no move outside IDLE (R199). How a step shows that
is the model's: with an empty list of inputs an idle block's step changes nothing (DESIGN CHOICE, log entry 16), and
outside IDLE the step is TX's, whatever stands on the list, in BUILDING (DEDUCED, log entry 28) and in WAITING. -/
def Obligations.StepWaitsOrRunsTx : Prop :=
  (∀ s : State, s.phase = .idle → s.port = [] → step s = .next s) ∧
  (∀ s : State, s.phase ≠ .idle → step s = exec .tx s)

/-! ### TABLE, ENC, MUX -/

/-- Each of TABLE's sixteen rows completes in every state with its literal at TABLE's output, and changes nothing else.
The literals are the spec's decision (R105, 92 D5). -/
def Obligations.TableRowsGiveTheirWords : Prop :=
  ∀ s : State,
    exec .lut0 s = .next { s with lutOut := 0x1111#16 } ∧ exec .lut1 s = .next { s with lutOut := 0x7111#16 } ∧
    exec .lut2 s = .next { s with lutOut := 0x1711#16 } ∧ exec .lut3 s = .next { s with lutOut := 0x7711#16 } ∧
    exec .lut4 s = .next { s with lutOut := 0x1171#16 } ∧ exec .lut5 s = .next { s with lutOut := 0x7171#16 } ∧
    exec .lut6 s = .next { s with lutOut := 0x1771#16 } ∧ exec .lut7 s = .next { s with lutOut := 0x7771#16 } ∧
    exec .lut8 s = .next { s with lutOut := 0x1117#16 } ∧ exec .lut9 s = .next { s with lutOut := 0x7117#16 } ∧
    exec .lutA s = .next { s with lutOut := 0x1717#16 } ∧ exec .lutB s = .next { s with lutOut := 0x7717#16 } ∧
    exec .lutC s = .next { s with lutOut := 0x1177#16 } ∧ exec .lutD s = .next { s with lutOut := 0x7177#16 } ∧
    exec .lutE s = .next { s with lutOut := 0x1777#16 } ∧ exec .lutF s = .next { s with lutOut := 0x7777#16 }

/-- R103's structure: two different symbol values, each a run of high bits and then a run of low bits in time order (bit
0 first); every entry is four symbols, one for each nibble bit, the bits taken in one fixed order; so no entry is the
zero word, and bits 0, 4, 8, 12 are set and bits 3, 7, 11, 15 clear. -/
def Obligations.TableIsFourSymbols : Prop :=
  ∃ (sym : Bool → Nibble) (order : Fin 4 → Fin 4),
    sym false ≠ sym true ∧ (∀ a, sym a = 1#4 ∨ sym a = 3#4 ∨ sym a = 7#4) ∧ Function.Injective order ∧
    ∀ n : Nibble,
      table n = sym (n.getLsbD (order 3)) ++ sym (n.getLsbD (order 2)) ++ sym (n.getLsbD (order 1)) ++
        sym (n.getLsbD (order 0)) ∧
      table n ≠ 0#16 ∧ ∀ k < 4, (table n).getLsbD (4 * k) = true ∧ (table n).getLsbD (4 * k + 3) = false

/-- R62: a channel byte is its two nibbles, no scaling and no shift other than the split. -/
def Obligations.ChannelByteSplitsIntoNibbles : Prop :=
  ∀ v : Byte, hiNibble v = v.extractLsb' 4 4 ∧ loNibble v = v.extractLsb' 0 4 ∧
    v.toNat = (hiNibble v).toNat * 16 + (loNibble v).toNat

/-- R100: ENC completes in every state; its first word is the high nibble's, its second the low nibble's, and it changes
nothing but its own and TABLE's outputs. -/
def Obligations.EncEmitsHighThenLow : Prop :=
  ∀ (v : Byte) (s : State), exec (.enc v) s =
    .next { s with encOut := ⟨table (v.extractLsb' 4 4), table (v.extractLsb' 0 4)⟩, lutOut := table (v.extractLsb' 0 4) }

/-- R102: TABLE's entries are pairwise different, DEC inverts it, and what ENC makes of a byte decodes to the byte. -/
def Obligations.EncodedBytesRoundTrip : Prop :=
  (∀ m n : Nibble, table m = table n → m = n) ∧ (∀ n : Nibble, dec (table n) = some n) ∧
  ∀ (v : Byte) (s : State), ∃ t, exec (.enc v) s = .next t ∧
    ∃ h l : Nibble, dec t.encOut.w0 = some h ∧ dec t.encOut.w1 = some l ∧ h.toNat * 16 + l.toNat = v.toNat

/-- R106: with a session MUX completes and puts the channels in the model's order (which variant has which order is the
spec's decision, 92 D3); without one it is refused, since `MODEL` is unreadable (R14). -/
def Obligations.MuxOrdersTheChannels : Prop :=
  ∀ (p : Pixel) (s : State),
    (s.valid = true → s.model = .variantA → exec (.mux p) s = .next { s with muxOut := ⟨p.g, p.r, p.b⟩ }) ∧
    (s.valid = true → s.model = .variantB → exec (.mux p) s = .next { s with muxOut := ⟨p.r, p.g, p.b⟩ }) ∧
    (s.valid = false → exec (.mux p) s = .refused .noSession)

/-! ### PRE -/

/-- R92's laws L1 to L5 of `SCALE`, whose free choices stay open (how they are held is log entry 5, DEDUCED). -/
def Obligations.ScaleMeetsItsLaws : Prop :=
  (∀ c : Byte, scale c 0#8 = 0#8) ∧ (∀ b : Byte, scale 0#8 b = 0#8) ∧
  (∀ c b : Byte, ¬ 255 ∣ c.toNat * b.toNat → (scale c b).toNat = c.toNat * b.toNat / 255) ∧
  (∀ c b : Byte, 255 ∣ c.toNat * b.toNat →
    (scale c b).toNat = c.toNat * b.toNat / 255 ∨
      ((scale c b).toNat + 1 = c.toNat * b.toNat / 255)) ∧
  (∀ c b : Byte, scale c b ≤ c) ∧ (∀ c : Byte, scale c 255#8 = c)

/-- R93's laws C1 to C3 of the correction curves, whose points stay open (how they are held is log entry 6,
DEDUCED). -/
def Obligations.CorrectionMeetsItsLaws : Prop :=
  corrG 0#8 = 0#8 ∧ corrB 0#8 = 0#8 ∧ (∀ g : Byte, corrG g ≤ g) ∧ (∀ b : Byte, corrB b ≤ b) ∧
  (∀ x y : Byte, x ≤ y → corrG x ≤ corrG y) ∧ (∀ x y : Byte, x ≤ y → corrB x ≤ corrB y)

/-- R94: the four combinations of brightness and correction, brightness first. -/
def Obligations.BrightnessComesBeforeCorrection : Prop :=
  ∀ (level : Byte) (r g b : Byte),
    adjust 255#8 false ⟨r, g, b⟩ = ⟨r, g, b⟩ ∧
    adjust 255#8 true ⟨r, g, b⟩ = ⟨r, corrG g, corrB b⟩ ∧
    (level ≠ 255#8 → adjust level false ⟨r, g, b⟩ = ⟨scale r level, scale g level, scale b level⟩) ∧
    (level ≠ 255#8 → adjust level true ⟨r, g, b⟩ =
      ⟨scale r level, corrG (scale g level), corrB (scale b level)⟩)

/-- PRE completes on every pixel of the session: the pixel then holds its adjusted channels, which are also PRE's
result; nothing else changes, and nothing at all but the result latch when both stages are off. -/
def Obligations.PreAdjustsOnePixelInPlace : Prop :=
  ∀ (i : Count) (s : State), StageReady s → i < s.leds →
    ∃ t, exec (.pre i) s = .next t ∧ t = { s with pix := t.pix, work := adjusted s i.toNat } ∧
      readPixel s.pixref i.toNat t = adjusted s i.toNat ∧
      PixelsKeptOutside s.pixref i.toNat (i.toNat + 1) s t ∧ (PreOff s → t.pix = s.pix)

/-- PRE has no meaning outside the buffer, without a session, or during a transfer. -/
def Obligations.PreRefusedOutsideTheBuffer : Prop :=
  ∀ (i : Count) (s : State),
    (StageReady s → s.leds ≤ i → exec (.pre i) s = .refused .pixIndex) ∧
    (s.phase = .waiting → exec (.pre i) s = .refused .commandBusy) ∧
    (s.phase ≠ .waiting → s.faulted = true → exec (.pre i) s = .refused .blockFaulted) ∧
    (s.phase ≠ .waiting → s.faulted = false → s.valid = false → exec (.pre i) s = .refused .noSession)

/-! ### BUILD and UPDATE -/

/-- BUILD completes with the whole frame in TXB, every pixel adjusted in place once, `WP` at `WORD_COUNT`; nothing else
changes. The hardware runs BUILD inside UPDATE only: that it is an operation of its own (DESIGN CHOICE, log entry 12) and
that `PHASE` then stays BUILDING until TX submits (DEDUCED, log entry 28) is the model's. -/
def Obligations.BuildWritesTheFrame : Prop :=
  ∀ s : State, StageReady s → Sized s →
    ∃ t, exec .build s = .next t ∧ FrameOf s t ∧ PixelsAdjusted s t ∧ t.wp = s.wordCount ∧
      StagesOnly { s with phase := .building } t

/-- UPDATE completes its own part: BUILD's frame and pixels, then the submission of `16 * WORD_COUNT` bits and the wait;
`RESULT`, `LINE`, the session and the settings are as before. -/
def Obligations.UpdateBuildsThenSubmits : Prop :=
  ∀ s : State, Ready s → Sized s →
    ∃ t, exec .update s = .next t ∧ FrameOf s t ∧ PixelsAdjusted s t ∧ t.wp = s.wordCount ∧
      StagesOnly { s with
        phase := .waiting, inFlight := true, sent := 0,
        calls := s.calls ++ [.transmit (16 * s.wordCount)] } t

/-- The size check (R116, R164, R172): where the words written differ from `WORD_COUNT`, UPDATE and BUILD leave
`FAULTED` set, `RESULT` `(SIZE_MISMATCH, 0)`, IDLE, nothing submitted. No run reaches such a state (R116). Where
`WORD_COUNT` is too small, `WP` still counts the words that have no place in TXB: R7 gives such a write no meaning, and
that it writes nothing while `WP` counts on is the model's (DESIGN CHOICE, log entry 11). BUILD taken alone is log entry
12 (DESIGN CHOICE). -/
def Obligations.SizeMismatchIsFatal : Prop :=
  ∀ s : State, ¬ Sized s →
    (StageReady s → ∃ t, exec .build s = .next t ∧ t.wp = wordCountOf s.leds s.resetGap ∧ PixelsAdjusted s t ∧
      StagesOnly { s with
        phase := .idle, faulted := true, result := ⟨.sizeMismatch, 0#32⟩ } t) ∧
    (Ready s → ∃ t, exec .update s = .next t ∧ t.wp = wordCountOf s.leds s.resetGap ∧ PixelsAdjusted s t ∧
      StagesOnly { s with
        phase := .idle, faulted := true, result := ⟨.sizeMismatch, 0#32⟩ } t)

/-- Without a session, in a running command or with `FAULTED` set, UPDATE, FILL and FILL_ALL are refused, each by its
reason (R140, R165). -/
def Obligations.SessionCommandsRefused : Prop :=
  ∀ (i : Instr) (s : State), (i = .update ∨ (∃ p lo hi, i = .fill p lo hi) ∨ ∃ p, i = .fillAll p) →
    (s.phase ≠ .idle → exec i s = .refused .commandBusy) ∧
    (s.phase = .idle → s.faulted = true → exec i s = .refused .blockFaulted) ∧
    (Open s → s.valid = false → exec i s = .refused .noSession)

/-- Both stages off: an UPDATE leaves pixel memory as it was, to the last cell (R149). -/
def Obligations.UpdateKeepsPixelsWhenPreIsOff : Prop :=
  ∀ s : State, Ready s → Sized s → PreOff s →
    ∃ t, exec .update s = .next t ∧ t.pix = s.pix ∧ ∀ i < s.leds.toNat, adjusted s i = readPixel s.pixref i s

/-- Brightness 0: every word of every pixel is `TABLE[0]` and every pixel is black afterwards, whatever the correction
(R96 (b)). -/
def Obligations.BrightnessZeroSendsTableZero : Prop :=
  ∀ s : State, Ready s → Sized s → s.brightness = 0#8 →
    ∃ t, exec .update s = .next t ∧ (∀ k, 1 ≤ k → k ≤ 6 * s.leds.toNat → readTxb k t = table 0#4) ∧
      ∀ i < s.leds.toNat, readPixel s.pixref i t = ⟨0#8, 0#8, 0#8⟩

/-- No channel of a pixel grows in an UPDATE (laws L4 and C2). -/
def Obligations.UpdateNeverBrightens : Prop :=
  ∀ s : State, Ready s → Sized s →
    ∃ t, exec .update s = .next t ∧ ∀ i < s.leds.toNat, ∀ c, readChan s.pixref i c t ≤ readChan s.pixref i c s

/-- Decoding the six words of a pixel and undoing MUX gives the pixel as the UPDATE left it: its byte in position `p`
is the nibbles that DEC reads from its two words. -/
def Obligations.FrameDecodesToThePixels : Prop :=
  ∀ s : State, Ready s → Sized s →
    ∃ t, exec .update s = .next t ∧ ∀ i < s.leds.toNat, ∀ p < 3, ∃ h l : Nibble,
      dec (readTxb (1 + 6 * i + 2 * p) t) = some h ∧ dec (readTxb (1 + 6 * i + 2 * p + 1) t) = some l ∧
        (muxOrder s.model (readPixel s.pixref i t)).at p = h ++ l

/-- Every word of TXB after an UPDATE's BUILD is the zero word or a table word, and the zero words are exactly the
guard and the gap (R78). -/
def Obligations.FrameHoldsZeroAndTableWords : Prop :=
  ∀ s : State, Ready s → Sized s →
    ∃ t, exec .update s = .next t ∧ ∀ k < s.wordCount,
      (readTxb k t = 0#16 ↔ k = 0 ∨ 6 * s.leds.toNat < k) ∧ (readTxb k t ≠ 0#16 → ∃ n, readTxb k t = table n)

/-! ### TX -/

/-- After BUILD, TX completes its submission: the wait begins, and the platform is given `16 * WORD_COUNT` bits. -/
def Obligations.TxSubmitsTheWholeBuffer : Prop :=
  ∀ s : State, StageReady s → s.phase = .building → s.wp = s.wordCount →
    exec .tx s = .next { s with
      inFlight := true, phase := .waiting, sent := 0, calls := s.calls ++ [.transmit (16 * s.wordCount)] }

/-- TX has no meaning without a completed buffer. -/
def Obligations.TxRefusedWithoutAFrame : Prop :=
  ∀ s : State, (s.phase = .idle → exec .tx s = .refused .txNoFrame) ∧
    (StageReady s → s.phase = .building → s.wp ≠ s.wordCount → exec .tx s = .refused .txNoFrame)

/-- A transfer is `16 * WORD_COUNT` physical bits, and bit `p` of it is bit `p mod 16` of word `p / 16`. -/
def Obligations.TransferIsAllBitsOfTxb : Prop :=
  ∀ s : State, (frameBits s).length = 16 * s.wordCount ∧
    ∀ p < 16 * s.wordCount, (frameBits s)[p]? = some ((readTxb (p / 16) s).getLsbD (p % 16))

/-- The transport answers `done`: the rest of the frame is on the line, `RESULT` is `(OK, 0)`, the block is idle, the
session is untouched. -/
def Obligations.TxDoneEndsUpdate : Prop :=
  ∀ s : State, s.phase = .waiting → s.sent ≤ 16 * s.wordCount → txAnswer s = .done →
    exec .tx s = .next { s with
      line := s.line ++ (frameBits s).drop s.sent, result := ⟨.ok, 0#32⟩, inFlight := false, phase := .idle, sent := 0
      plat := { s.plat with tx := s.plat.tx.tail, taken := s.plat.taken + 1 } }

/-- The transport answers `fault(e)`: `RESULT` is `(TRANSFER_ERROR, e)`, the block is idle, the session, the settings,
TXB and pixel memory are untouched, and the line has grown by some further bits of the frame in order (R125, R127,
R171). -/
def Obligations.TxFaultIsSurfaced : Prop :=
  ∀ (s : State) (e : ErrCode) (n : Nat), s.phase = .waiting → txAnswer s = .fault e n →
    ∃ bits, bits <+: (frameBits s).drop s.sent ∧
      exec .tx s = .next { s with
        line := s.line ++ bits, result := ⟨.transferError, e⟩, inFlight := false, phase := .idle, sent := 0
        plat := { s.plat with tx := s.plat.tx.tail, taken := s.plat.taken + 1 } }

/-- A whole transfer: however many moves the transport makes before it answers `done`, the run from the submission
ends with exactly `bits(TXB)` added to the line, in order, and `(OK, 0)` (R123, R124; premise `TransportAnswers`). -/
def Obligations.TransferPutsTheFrameOnTheLine : Prop :=
  ∀ (ns : List Nat) (more : List TxAnswer) (s : State), s.phase = .waiting → s.sent = 0 →
    s.plat.tx = clocks ns ++ TxAnswer.done :: more →
    ∃ t, core.run (ns.length + 1) s = .next t ∧ t.line = s.line ++ frameBits s ∧ t.result = ⟨.ok, 0#32⟩ ∧
      t.phase = .idle ∧ t.inFlight = false ∧ t.txb = s.txb ∧ t.pix = s.pix ∧ t.valid = s.valid

/-- No timeout (R126): while the transport gives no answer, for any number of steps, the block waits, with `IN_FLIGHT`,
`RESULT`, TXB, pixel memory and everything else but the line and the transport's inputs as they were: nothing aborts,
cancels or counts. Only an answer ends the wait. -/
def Obligations.SilentTransportBlocksForEver : Prop :=
  ∀ (ns : List Nat) (more : List TxAnswer) (s : State), s.phase = .waiting → s.inFlight = true →
    s.plat.tx = clocks ns ++ more →
    ∃ t, core.run ns.length s = .next t ∧ t.phase = .waiting ∧ t.inFlight = true ∧
      t = { s with line := t.line, sent := t.sent, plat := t.plat } ∧ t.plat.tx = more

/-! ### INIT -/

/-- INIT completes when the platform answers ok three times (R130, R131): the session registers, `VALID`, TXB's size,
the three calls in order, and nothing else. TXB's words and pixel memory hold whatever they hold. -/
def Obligations.InitOpensASession : Prop :=
  ∀ (pin : Byte) (m : Model) (leds : Count) (ref : Handle) (s : State),
    Open s → s.valid = false → OwnsBuffer ref leds s →
    busAnswer s = .ok → devAnswer (callBus pin s) = .ok → allocAnswer (callDev (callBus pin s)) = .ok →
    ∃ t, exec (.init pin m leds ref) s = .next t ∧
      t.resetGap = gapOf m ∧ t.wordCount = 1 + 6 * leds.toNat + gapOf m ∧ t.txbBytes = some (2 * t.wordCount) ∧
      t.calls = s.calls ++ [.busRegister pin, .devRegister, .allocDma (2 * t.wordCount)] ∧
      t = { s with
        pin := pin, model := m, leds := leds, pixref := ref, resetGap := t.resetGap, wordCount := t.wordCount
        txbBytes := t.txbBytes, txb := [], valid := true, result := ⟨.ok, 0#32⟩, calls := t.calls, plat := t.plat }

/-- Each INIT fault (R160 to R162, R170): the first failing step is reported with its code and later steps are not
attempted; the pixel memory INIT named is released; no session register is written; nothing else changes. -/
def Obligations.InitFaultsReleaseTheBuffer : Prop :=
  ∀ (pin : Byte) (m : Model) (leds : Count) (ref : Handle) (s : State),
    Open s → s.valid = false → OwnsBuffer ref leds s →
    (∀ e, busAnswer s = .fail e → ∃ t, exec (.init pin m leds ref) s = .next t ∧
      t.result = ⟨.busRegFail, e⟩ ∧ t.calls = s.calls ++ [.busRegister pin] ∧ (bufAt ref t).own = .released ∧
      (∀ h, h ≠ ref → bufAt h t = bufAt h s) ∧
      t = { s with result := t.result, calls := t.calls, bufs := t.bufs, plat := t.plat }) ∧
    (∀ e, busAnswer s = .ok → devAnswer (callBus pin s) = .fail e → ∃ t, exec (.init pin m leds ref) s = .next t ∧
      t.result = ⟨.devRegFail, e⟩ ∧ t.calls = s.calls ++ [.busRegister pin, .devRegister] ∧
      (bufAt ref t).own = .released ∧ (∀ h, h ≠ ref → bufAt h t = bufAt h s) ∧
      t = { s with result := t.result, calls := t.calls, bufs := t.bufs, plat := t.plat }) ∧
    (busAnswer s = .ok → devAnswer (callBus pin s) = .ok → allocAnswer (callDev (callBus pin s)) = .fail →
      ∃ t, exec (.init pin m leds ref) s = .next t ∧ t.result = ⟨.allocFail, 0#32⟩ ∧
      t.calls = s.calls ++ [.busRegister pin, .devRegister, .allocDma (2 * (1 + 6 * leds.toNat + gapOf m))] ∧
      (bufAt ref t).own = .released ∧ (∀ h, h ≠ ref → bufAt h t = bufAt h s) ∧
      t = { s with result := t.result, calls := t.calls, bufs := t.bufs, plat := t.plat })

/-- When INIT is refused (R137), the reason named. -/
def Obligations.InitRefusals : Prop :=
  ∀ (pin : Byte) (m : Model) (leds : Count) (ref : Handle) (s : State),
    (s.phase ≠ .idle → exec (.init pin m leds ref) s = .refused .commandBusy) ∧
    (s.phase = .idle → s.faulted = true → exec (.init pin m leds ref) s = .refused .blockFaulted) ∧
    (Open s → s.valid = true → exec (.init pin m leds ref) s = .refused .sessionValid) ∧
    (Open s → s.valid = false → (bufAt ref s).own = .released →
      exec (.init pin m leds ref) s = .refused .pixReleased) ∧
    (Open s → s.valid = false → (bufAt ref s).own = .caller → (bufAt ref s).len < leds →
      exec (.init pin m leds ref) s = .refused .pixBufferShort)

/-! ### FILL, FILL_ALL, the settings, illegal commands -/

/-- FILL completes on every range within `LEDS`: exactly the pixels of `[from, to)` take the colour, as given. -/
def Obligations.FillWritesTheHalfOpenRange : Prop :=
  ∀ (p : Pixel) (lo hi : Count) (s : State), Ready s → lo ≤ s.leds → hi ≤ s.leds →
    ∃ t, exec (.fill p lo hi) s = .next t ∧ FillOnly s t ∧
      (∀ i, lo.toNat ≤ i → i < hi.toNat → readPixel s.pixref i t = p) ∧
      PixelsKeptOutside s.pixref lo.toNat hi.toNat s t ∧ (hi ≤ lo → t.pix = s.pix)

/-- A FILL index beyond `LEDS` has no meaning, even for an empty range (R141, R165 (a)). -/
def Obligations.FillRefusedBeyondLeds : Prop :=
  ∀ (p : Pixel) (lo hi : Count) (s : State), Ready s → s.leds < lo ∨ s.leds < hi →
    exec (.fill p lo hi) s = .refused .fillRange

/-- FILL_ALL is FILL over the whole buffer, in every state; with a session it completes, and every pixel takes the
colour. -/
def Obligations.FillAllIsTheFullRangeFill : Prop :=
  ∀ (p : Pixel) (s : State), exec (.fillAll p) s = exec (.fill p 0#16 s.leds) s ∧
    (Ready s → ∃ t, exec (.fillAll p) s = .next t ∧ FillOnly s t ∧
      (∀ i < s.leds.toNat, readPixel s.pixref i t = p) ∧ PixelsKeptOutside s.pixref 0 s.leds.toNat s t)

/-- SET_BRIGHTNESS writes its level and `RESULT` and touches nothing else, with or without a session. -/
def Obligations.SetBrightnessWritesTheLevel : Prop :=
  ∀ (level : Byte) (s : State), Open s →
    exec (.setBrightness level) s = .next { s with brightness := level, result := ⟨.ok, 0#32⟩ }

/-- SET_COLOR_CORRECTION writes its flag and `RESULT` and touches nothing else, with or without a session. -/
def Obligations.SetColorCorrectionWritesTheFlag : Prop :=
  ∀ (en : Bool) (s : State), Open s →
    exec (.setColorCorrection en) s = .next { s with correction := en, result := ⟨.ok, 0#32⟩ }

/-- While a command runs or `FAULTED` is set the settings commands are refused (R145, R165 (e)). -/
def Obligations.SettingsCommandsRefused : Prop :=
  ∀ (i : Instr) (s : State), ((∃ level, i = .setBrightness level) ∨ ∃ en, i = .setColorCorrection en) →
    (s.phase ≠ .idle → exec i s = .refused .commandBusy) ∧
    (s.phase = .idle → s.faulted = true → exec i s = .refused .blockFaulted)

/-- An illegal command word writes `(ILLEGAL_CMD, 0)` and nothing else, with or without a session and even while
`FAULTED` (the spec's own answer, R76 and 92 D29); the port takes none while a command runs. -/
def Obligations.IllegalCommandWritesResultOnly : Prop :=
  ∀ (w : Command) (s : State),
    (s.phase = .idle → exec (.illegalCmd w) s = .next { s with result := ⟨.illegalCmd, 0#32⟩ }) ∧
    (s.phase ≠ .idle → exec (.illegalCmd w) s = .refused .commandBusy)

/-! ### The host's accesses -/

/-- The host stores a channel of a pixel within a memory of its own (R150), and loads what was last written (R151):
neither writes `RESULT`, and no other channel changes. -/
def Obligations.HostStoresAndLoadsPixels : Prop :=
  ∀ (ref : Handle) (i : Count) (c : Chan) (v : Byte) (s : State),
    s.phase = .idle → (bufAt ref s).own = .caller → i < (bufAt ref s).len → (s.valid = true → ref = s.pixref → i < s.leds) →
    hostLoad ref i c s = .next { s with hostByte := readChan ref i.toNat c s } ∧
    ∃ t, hostStore ref i c v s = .next t ∧ t = { s with pix := t.pix } ∧
      ∀ (h : Handle) (j : Count) (d : Chan),
        readChan h j.toNat d t = if h = ref ∧ j = i ∧ d = c then v else readChan h j.toNat d s

/-- Where the host may not store (R165 (d), (f), (g)): during an UPDATE, in released memory, beyond the buffer. The
load is refused in the same cases. -/
def Obligations.HostAccessRefusals : Prop :=
  ∀ (ref : Handle) (i : Count) (c : Chan) (v : Byte) (s : State) (r : Refusal),
    (s.phase ≠ .idle ∧ r = .pixBusy ∨
      s.phase = .idle ∧ (bufAt ref s).own = .released ∧ r = .pixReleased ∨
      s.phase = .idle ∧ (bufAt ref s).own = .caller ∧
        (s.valid = true ∧ ref = s.pixref ∧ s.leds ≤ i ∨ (bufAt ref s).len ≤ i) ∧ r = .pixIndex) →
    hostStore ref i c v s = .refused r ∧ hostLoad ref i c s = .refused r

/-- The session's pixel memory stays in place (R194, R165 (h)): the host's resize of it is refused, and so is one of
released memory. -/
def Obligations.SessionBufferStaysInPlace : Prop :=
  ∀ (ref : Handle) (len : Count) (s : State), s.phase = .idle →
    ((bufAt ref s).own = .released → hostResize ref len s = .refused .pixReleased) ∧
    ((bufAt ref s).own = .caller → s.valid = true → ref = s.pixref → hostResize ref len s = .refused .pixBufferMoved)

/-! ### The whole machine -/

/-- The session registers, once written by a successful INIT, are never written again (R12, R131): no step changes one
while `VALID = 1`, or ends the session (R17). -/
def Obligations.SessionRegistersAreFixed : Prop :=
  ∀ s t : State, s.valid = true → step s = .next t →
    t.valid = true ∧ t.pin = s.pin ∧ t.model = s.model ∧ t.leds = s.leds ∧ t.pixref = s.pixref ∧
      t.resetGap = s.resetGap ∧ t.wordCount = s.wordCount ∧ t.txbBytes = s.txbBytes

/-- `FAULTED` is never cleared, and while it is set only an illegal word's answer writes `RESULT` between commands
(R25, R169). -/
def Obligations.FaultedIsNeverCleared : Prop :=
  ∀ s t : State, s.faulted = true → step s = .next t →
    t.faulted = true ∧ (s.phase = .idle → t.result = s.result ∨ t.result = ⟨.illegalCmd, 0#32⟩)

/-- The settings are written by their own commands only (R22, R23, R24): any other step keeps both. -/
def Obligations.OnlySettingsCommandsWriteSettings : Prop :=
  ∀ s t : State, step s = .next t →
    (t.brightness = s.brightness ∨ s.phase = .idle ∧ ∃ src rest level, s.port = .fetch src :: rest ∧
      decode src = .setBrightness level ∧ t.brightness = level) ∧
    (t.correction = s.correction ∨ s.phase = .idle ∧ ∃ src rest en, s.port = .fetch src :: rest ∧
      decode src = .setColorCorrection en ∧ t.correction = en)

/-- The line only grows, and only during a transfer (R32, R146): a step between commands leaves it, and a step of the
wait adds bits of `bits(TXB)` that follow those already sent. -/
def Obligations.LineGrowsOnlyByTheFrame : Prop :=
  ∀ s t : State, step s = .next t →
    (s.phase ≠ .waiting → t.line = s.line) ∧
    ∃ bits, bits <+: (frameBits s).drop s.sent ∧ t.line = s.line ++ bits

/-- TXB and pixel memory are never written while a transfer is in flight (R27, R52). -/
def Obligations.MemoriesAreStableInFlight : Prop :=
  ∀ s t : State, s.phase = .waiting → step s = .next t → t.txb = s.txb ∧ t.pix = s.pix ∧ t.bufs = s.bufs

/-- Between commands only UPDATE and INIT touch TXB (R30, R146). -/
def Obligations.OnlyBuildWritesTxb : Prop :=
  ∀ s t : State, step s = .next t → t.txb ≠ s.txb →
    s.phase = .idle ∧ ∃ src rest, s.port = .fetch src :: rest ∧
      (decode src = .update ∨ (∃ pin m leds ref, decode src = .init pin m leds ref) ∧ t.txb = [])

/-- A released pixel memory stays released (R33 (c)): no step gives it back to the caller. -/
def Obligations.ReleasedMemoryStaysReleased : Prop :=
  ∀ (s t : State) (ref : Handle), step s = .next t → (bufAt ref s).own = .released → (bufAt ref t).own = .released

/-- A transfer error (R125): the code reaches `RESULT` unchanged and nothing is retried; `VALID`, the session, the
settings and TXB are as BUILD left them, and pixel memory holds the adjusted pixels; the caller's next UPDATE is
admitted and adjusts them a second time. -/
def Obligations.RetryAfterTransferErrorAdjustsAgain : Prop :=
  ∀ (s t u : State) (e : ErrCode) (n : Nat), Ready s → Sized s → exec .update s = .next t → txAnswer t = .fault e n →
    exec .tx t = .next u →
    u = { t with
      result := ⟨.transferError, e⟩, inFlight := false, phase := .idle, sent := 0, line := u.line, plat := u.plat } ∧
    (∀ i < s.leds.toNat, readPixel u.pixref i u = adjusted s i) ∧ Ready u ∧
    ∃ v, exec .update u = .next v ∧
      ∀ i < s.leds.toNat, readPixel v.pixref i v = adjust s.brightness s.correction (adjusted s i)

/-! ### The configuration functions -/

/-- The model fixes nothing of `SCALE`, `CORR_G` and `CORR_B` beyond their laws (R4, R92, R93): every function that meets
L1 to L5 is the scaling function for some free choices, every function that meets C1 to C3 is the curve through its own
points, and the spec's defaults are among them. -/
def Obligations.ConfigurationFunctionsAreBoundByLawsOnly : Prop :=
  (∀ f : Byte → Byte → Byte,
    (∀ c, f c 0#8 = 0#8) → (∀ b, f 0#8 b = 0#8) →
    (∀ c b, ¬ 255 ∣ c.toNat * b.toNat → (f c b).toNat = c.toNat * b.toNat / 255) →
    (∀ c b, 255 ∣ c.toNat * b.toNat →
      (f c b).toNat = c.toNat * b.toNat / 255 ∨ (f c b).toNat + 1 = c.toNat * b.toNat / 255) →
    (∀ c b, f c b ≤ c) → (∀ c, f c 255#8 = c) →
    ∃ low, ∀ c b, scaleBy low c b = f c b) ∧
  (∀ f : Byte → Byte, f 0#8 = 0#8 → (∀ v, f v ≤ v) → (∀ x y, x ≤ y → f x ≤ f y) → ∀ v, curveBy f v = f v) ∧
  (∃ low, ∀ c b, scaleBy low c b = scaleDefault c b) ∧ (∀ g, curveBy corrGDefault g = corrGDefault g) ∧
  ∀ b, curveBy corrBDefault b = corrBDefault b
end

