-- ==== Sys2Proof/Laws/Memory.lean ====
section
/-! SUPPORT. Laws of the memories: read after write, and that every operation keeps the canonical form. -/

namespace Sys2Proof.Machine.Memory

variable {α : Type}

@[simp] theorem get_nil (k : Nat) : get? ([] : List (Nat × α)) k = none := rfl

theorem get_put (m : List (Nat × α)) (k j : Nat) (v : α) :
    get? (put m k v) j = if j = k then some v else get? m j := by
  induction m with
  | nil => simp [put, get?]
  | cons e m ih =>
    obtain ⟨k', v'⟩ := e
    simp only [put]
    split_ifs <;> simp only [get?, ih] <;> split_ifs <;> first | rfl | omega

@[simp] theorem get_put_same (m : List (Nat × α)) (k : Nat) (v : α) : get? (put m k v) k = some v := by
  simp [get_put]

theorem get_put_other (m : List (Nat × α)) {k j : Nat} (h : j ≠ k) (v : α) : get? (put m k v) j = get? m j := by
  simp [get_put, h]

/-- The canonical form, said with the library's word for a sorted list. -/
theorem wf_iff (m : List (Nat × α)) : wf m = true ↔ m.Pairwise (fun a b => a.1 < b.1) := by
  induction m with
  | nil => simp [wf]
  | cons e m ih =>
    cases m with
    | nil => simp [wf]
    | cons f m =>
      obtain ⟨a, x⟩ := e
      obtain ⟨b, y⟩ := f
      simp only [wf, Bool.and_eq_true, decide_eq_true_eq, ih, List.pairwise_cons, List.mem_cons]
      constructor
      · rintro ⟨hab, hb, hm⟩
        refine ⟨?_, hb, hm⟩
        rintro e (rfl | he)
        · exact hab
        · exact lt_trans hab (hb e he)
      · rintro ⟨ha, hb, hm⟩
        exact ⟨ha _ (.inl rfl), hb, hm⟩

theorem mem_put {m : List (Nat × α)} {k : Nat} {v : α} {e : Nat × α} (h : e ∈ put m k v) :
    e = (k, v) ∨ e ∈ m := by
  induction m with
  | nil => simpa [put] using h
  | cons f m ih =>
    obtain ⟨k', v'⟩ := f
    simp only [put] at h
    split_ifs at h <;> simp only [List.mem_cons] at h ⊢ <;> tauto

theorem put_wf {m : List (Nat × α)} (h : wf m = true) (k : Nat) (v : α) : wf (put m k v) = true := by
  rw [wf_iff] at h ⊢
  induction m with
  | nil => simp [put]
  | cons e m ih =>
    obtain ⟨k', v'⟩ := e
    obtain ⟨hlt, hm⟩ := List.pairwise_cons.1 h
    simp only [put]
    split_ifs with h1 h2
    · refine List.pairwise_cons.2 ⟨?_, h⟩
      rintro e he
      rcases List.mem_cons.1 he with rfl | he
      · exact h1
      · exact lt_trans h1 (hlt e he)
    · subst h2
      exact List.pairwise_cons.2 ⟨hlt, hm⟩
    · refine List.pairwise_cons.2 ⟨?_, ih hm⟩
      intro e he
      rcases mem_put he with rfl | he
      · show k' < k
        omega
      · exact hlt e he

theorem mem_del {m : List (Nat × α)} {k : Nat} {e : Nat × α} (h : e ∈ del m k) : e ∈ m := by
  induction m with
  | nil => exact h
  | cons f m ih =>
    obtain ⟨k', v'⟩ := f
    simp only [del] at h
    split_ifs at h <;> simp only [List.mem_cons] at h ⊢ <;> tauto

theorem del_wf {m : List (Nat × α)} (h : wf m = true) (k : Nat) : wf (del m k) = true := by
  rw [wf_iff] at h ⊢
  induction m with
  | nil => exact h
  | cons e m ih =>
    obtain ⟨k', v'⟩ := e
    obtain ⟨hlt, hm⟩ := List.pairwise_cons.1 h
    simp only [del]
    split_ifs
    · exact hm
    · exact List.pairwise_cons.2 ⟨fun e he => hlt e (mem_del he), ih hm⟩

/-- A key below every key of a sorted memory is not listed. -/
theorem get_none_of_lt {m : List (Nat × α)} {k : Nat} (h : ∀ e ∈ m, k < e.1) : get? m k = none := by
  induction m with
  | nil => rfl
  | cons e m ih =>
    obtain ⟨k', v'⟩ := e
    have := h (k', v') (by simp)
    simp only [get?]
    rw [if_neg (by simp at this; omega), ih (fun e he => h e (by simp [he]))]

theorem get_del {m : List (Nat × α)} (h : wf m = true) (k j : Nat) :
    get? (del m k) j = if j = k then none else get? m j := by
  rw [wf_iff] at h
  induction m with
  | nil => simp [del]
  | cons e m ih =>
    obtain ⟨k', v'⟩ := e
    obtain ⟨hlt, hm⟩ := List.pairwise_cons.1 h
    simp only [del]
    by_cases hk : k = k'
    · subst hk
      rw [if_pos rfl]
      by_cases hj : j = k
      · subst hj
        rw [if_pos rfl]
        exact get_none_of_lt (fun e he => hlt e he)
      · simp [get?, hj]
    · rw [if_neg hk]
      simp only [get?, ih hm]
      split_ifs <;> first | rfl | omega

theorem filter_wf {m : List (Nat × α)} (h : wf m = true) (p : Nat × α → Bool) : wf (m.filter p) = true := by
  rw [wf_iff] at h ⊢
  exact h.filter p

theorem get_filter (m : List (Nat × α)) (p : Nat → Bool) (k : Nat) :
    get? (m.filter (fun e => p e.1)) k = if p k then get? m k else none := by
  induction m with
  | nil => simp
  | cons e m ih =>
    obtain ⟨k', v'⟩ := e
    by_cases hp : p k' <;> by_cases hk : k = k' <;> simp_all [get?]

end Sys2Proof.Machine.Memory
end

