-- ==== Sys2Proof/Laws/State.lean ====
section
/-! SUPPORT. What each plain update of the state leaves in each field: one lemma per field, true by rfl. -/

namespace Sys2Proof.Machine

@[simp] theorem popPort_pin (s : State) : (popPort s).pin = s.pin := rfl
@[simp] theorem popPort_model (s : State) : (popPort s).model = s.model := rfl
@[simp] theorem popPort_leds (s : State) : (popPort s).leds = s.leds := rfl
@[simp] theorem popPort_pixref (s : State) : (popPort s).pixref = s.pixref := rfl
@[simp] theorem popPort_resetGap (s : State) : (popPort s).resetGap = s.resetGap := rfl
@[simp] theorem popPort_wordCount (s : State) : (popPort s).wordCount = s.wordCount := rfl
@[simp] theorem popPort_valid (s : State) : (popPort s).valid = s.valid := rfl
@[simp] theorem popPort_brightness (s : State) : (popPort s).brightness = s.brightness := rfl
@[simp] theorem popPort_correction (s : State) : (popPort s).correction = s.correction := rfl
@[simp] theorem popPort_result (s : State) : (popPort s).result = s.result := rfl
@[simp] theorem popPort_faulted (s : State) : (popPort s).faulted = s.faulted := rfl
@[simp] theorem popPort_inFlight (s : State) : (popPort s).inFlight = s.inFlight := rfl
@[simp] theorem popPort_phase (s : State) : (popPort s).phase = s.phase := rfl
@[simp] theorem popPort_pi (s : State) : (popPort s).pi = s.pi := rfl
@[simp] theorem popPort_wp (s : State) : (popPort s).wp = s.wp := rfl
@[simp] theorem popPort_work (s : State) : (popPort s).work = s.work := rfl
@[simp] theorem popPort_muxOut (s : State) : (popPort s).muxOut = s.muxOut := rfl
@[simp] theorem popPort_encOut (s : State) : (popPort s).encOut = s.encOut := rfl
@[simp] theorem popPort_lutOut (s : State) : (popPort s).lutOut = s.lutOut := rfl
@[simp] theorem popPort_bufs (s : State) : (popPort s).bufs = s.bufs := rfl
@[simp] theorem popPort_pix (s : State) : (popPort s).pix = s.pix := rfl
@[simp] theorem popPort_txb (s : State) : (popPort s).txb = s.txb := rfl
@[simp] theorem popPort_txbBytes (s : State) : (popPort s).txbBytes = s.txbBytes := rfl
@[simp] theorem popPort_line (s : State) : (popPort s).line = s.line := rfl
@[simp] theorem popPort_sent (s : State) : (popPort s).sent = s.sent := rfl
@[simp] theorem popPort_hostByte (s : State) : (popPort s).hostByte = s.hostByte := rfl
@[simp] theorem popPort_calls (s : State) : (popPort s).calls = s.calls := rfl
@[simp] theorem popPort_plat (s : State) : (popPort s).plat = s.plat := rfl
@[simp] theorem popPort_port (s : State) : (popPort s).port = s.port.tail := rfl

@[simp] theorem finishOk_pin (s : State) : (finishOk s).pin = s.pin := rfl
@[simp] theorem finishOk_model (s : State) : (finishOk s).model = s.model := rfl
@[simp] theorem finishOk_leds (s : State) : (finishOk s).leds = s.leds := rfl
@[simp] theorem finishOk_pixref (s : State) : (finishOk s).pixref = s.pixref := rfl
@[simp] theorem finishOk_resetGap (s : State) : (finishOk s).resetGap = s.resetGap := rfl
@[simp] theorem finishOk_wordCount (s : State) : (finishOk s).wordCount = s.wordCount := rfl
@[simp] theorem finishOk_valid (s : State) : (finishOk s).valid = s.valid := rfl
@[simp] theorem finishOk_brightness (s : State) : (finishOk s).brightness = s.brightness := rfl
@[simp] theorem finishOk_correction (s : State) : (finishOk s).correction = s.correction := rfl
@[simp] theorem finishOk_result (s : State) : (finishOk s).result = ⟨.ok, 0#32⟩ := rfl
@[simp] theorem finishOk_faulted (s : State) : (finishOk s).faulted = s.faulted := rfl
@[simp] theorem finishOk_inFlight (s : State) : (finishOk s).inFlight = s.inFlight := rfl
@[simp] theorem finishOk_phase (s : State) : (finishOk s).phase = s.phase := rfl
@[simp] theorem finishOk_pi (s : State) : (finishOk s).pi = s.pi := rfl
@[simp] theorem finishOk_wp (s : State) : (finishOk s).wp = s.wp := rfl
@[simp] theorem finishOk_work (s : State) : (finishOk s).work = s.work := rfl
@[simp] theorem finishOk_muxOut (s : State) : (finishOk s).muxOut = s.muxOut := rfl
@[simp] theorem finishOk_encOut (s : State) : (finishOk s).encOut = s.encOut := rfl
@[simp] theorem finishOk_lutOut (s : State) : (finishOk s).lutOut = s.lutOut := rfl
@[simp] theorem finishOk_bufs (s : State) : (finishOk s).bufs = s.bufs := rfl
@[simp] theorem finishOk_pix (s : State) : (finishOk s).pix = s.pix := rfl
@[simp] theorem finishOk_txb (s : State) : (finishOk s).txb = s.txb := rfl
@[simp] theorem finishOk_txbBytes (s : State) : (finishOk s).txbBytes = s.txbBytes := rfl
@[simp] theorem finishOk_line (s : State) : (finishOk s).line = s.line := rfl
@[simp] theorem finishOk_sent (s : State) : (finishOk s).sent = s.sent := rfl
@[simp] theorem finishOk_hostByte (s : State) : (finishOk s).hostByte = s.hostByte := rfl
@[simp] theorem finishOk_calls (s : State) : (finishOk s).calls = s.calls := rfl
@[simp] theorem finishOk_plat (s : State) : (finishOk s).plat = s.plat := rfl
@[simp] theorem finishOk_port (s : State) : (finishOk s).port = s.port := rfl

@[simp] theorem answerIllegal_pin (s : State) : (answerIllegal s).pin = s.pin := rfl
@[simp] theorem answerIllegal_model (s : State) : (answerIllegal s).model = s.model := rfl
@[simp] theorem answerIllegal_leds (s : State) : (answerIllegal s).leds = s.leds := rfl
@[simp] theorem answerIllegal_pixref (s : State) : (answerIllegal s).pixref = s.pixref := rfl
@[simp] theorem answerIllegal_resetGap (s : State) : (answerIllegal s).resetGap = s.resetGap := rfl
@[simp] theorem answerIllegal_wordCount (s : State) : (answerIllegal s).wordCount = s.wordCount := rfl
@[simp] theorem answerIllegal_valid (s : State) : (answerIllegal s).valid = s.valid := rfl
@[simp] theorem answerIllegal_brightness (s : State) : (answerIllegal s).brightness = s.brightness := rfl
@[simp] theorem answerIllegal_correction (s : State) : (answerIllegal s).correction = s.correction := rfl
@[simp] theorem answerIllegal_result (s : State) : (answerIllegal s).result = ⟨.illegalCmd, 0#32⟩ := rfl
@[simp] theorem answerIllegal_faulted (s : State) : (answerIllegal s).faulted = s.faulted := rfl
@[simp] theorem answerIllegal_inFlight (s : State) : (answerIllegal s).inFlight = s.inFlight := rfl
@[simp] theorem answerIllegal_phase (s : State) : (answerIllegal s).phase = s.phase := rfl
@[simp] theorem answerIllegal_pi (s : State) : (answerIllegal s).pi = s.pi := rfl
@[simp] theorem answerIllegal_wp (s : State) : (answerIllegal s).wp = s.wp := rfl
@[simp] theorem answerIllegal_work (s : State) : (answerIllegal s).work = s.work := rfl
@[simp] theorem answerIllegal_muxOut (s : State) : (answerIllegal s).muxOut = s.muxOut := rfl
@[simp] theorem answerIllegal_encOut (s : State) : (answerIllegal s).encOut = s.encOut := rfl
@[simp] theorem answerIllegal_lutOut (s : State) : (answerIllegal s).lutOut = s.lutOut := rfl
@[simp] theorem answerIllegal_bufs (s : State) : (answerIllegal s).bufs = s.bufs := rfl
@[simp] theorem answerIllegal_pix (s : State) : (answerIllegal s).pix = s.pix := rfl
@[simp] theorem answerIllegal_txb (s : State) : (answerIllegal s).txb = s.txb := rfl
@[simp] theorem answerIllegal_txbBytes (s : State) : (answerIllegal s).txbBytes = s.txbBytes := rfl
@[simp] theorem answerIllegal_line (s : State) : (answerIllegal s).line = s.line := rfl
@[simp] theorem answerIllegal_sent (s : State) : (answerIllegal s).sent = s.sent := rfl
@[simp] theorem answerIllegal_hostByte (s : State) : (answerIllegal s).hostByte = s.hostByte := rfl
@[simp] theorem answerIllegal_calls (s : State) : (answerIllegal s).calls = s.calls := rfl
@[simp] theorem answerIllegal_plat (s : State) : (answerIllegal s).plat = s.plat := rfl
@[simp] theorem answerIllegal_port (s : State) : (answerIllegal s).port = s.port := rfl

@[simp] theorem takeTx_pin (s : State) : (takeTx s).pin = s.pin := rfl
@[simp] theorem takeTx_model (s : State) : (takeTx s).model = s.model := rfl
@[simp] theorem takeTx_leds (s : State) : (takeTx s).leds = s.leds := rfl
@[simp] theorem takeTx_pixref (s : State) : (takeTx s).pixref = s.pixref := rfl
@[simp] theorem takeTx_resetGap (s : State) : (takeTx s).resetGap = s.resetGap := rfl
@[simp] theorem takeTx_wordCount (s : State) : (takeTx s).wordCount = s.wordCount := rfl
@[simp] theorem takeTx_valid (s : State) : (takeTx s).valid = s.valid := rfl
@[simp] theorem takeTx_brightness (s : State) : (takeTx s).brightness = s.brightness := rfl
@[simp] theorem takeTx_correction (s : State) : (takeTx s).correction = s.correction := rfl
@[simp] theorem takeTx_result (s : State) : (takeTx s).result = s.result := rfl
@[simp] theorem takeTx_faulted (s : State) : (takeTx s).faulted = s.faulted := rfl
@[simp] theorem takeTx_inFlight (s : State) : (takeTx s).inFlight = s.inFlight := rfl
@[simp] theorem takeTx_phase (s : State) : (takeTx s).phase = s.phase := rfl
@[simp] theorem takeTx_pi (s : State) : (takeTx s).pi = s.pi := rfl
@[simp] theorem takeTx_wp (s : State) : (takeTx s).wp = s.wp := rfl
@[simp] theorem takeTx_work (s : State) : (takeTx s).work = s.work := rfl
@[simp] theorem takeTx_muxOut (s : State) : (takeTx s).muxOut = s.muxOut := rfl
@[simp] theorem takeTx_encOut (s : State) : (takeTx s).encOut = s.encOut := rfl
@[simp] theorem takeTx_lutOut (s : State) : (takeTx s).lutOut = s.lutOut := rfl
@[simp] theorem takeTx_bufs (s : State) : (takeTx s).bufs = s.bufs := rfl
@[simp] theorem takeTx_pix (s : State) : (takeTx s).pix = s.pix := rfl
@[simp] theorem takeTx_txb (s : State) : (takeTx s).txb = s.txb := rfl
@[simp] theorem takeTx_txbBytes (s : State) : (takeTx s).txbBytes = s.txbBytes := rfl
@[simp] theorem takeTx_line (s : State) : (takeTx s).line = s.line := rfl
@[simp] theorem takeTx_sent (s : State) : (takeTx s).sent = s.sent := rfl
@[simp] theorem takeTx_hostByte (s : State) : (takeTx s).hostByte = s.hostByte := rfl
@[simp] theorem takeTx_calls (s : State) : (takeTx s).calls = s.calls := rfl
@[simp] theorem takeTx_port (s : State) : (takeTx s).port = s.port := rfl

@[simp] theorem clockOut_pin (n : Nat) (s : State) : (clockOut n s).pin = s.pin := rfl
@[simp] theorem clockOut_model (n : Nat) (s : State) : (clockOut n s).model = s.model := rfl
@[simp] theorem clockOut_leds (n : Nat) (s : State) : (clockOut n s).leds = s.leds := rfl
@[simp] theorem clockOut_pixref (n : Nat) (s : State) : (clockOut n s).pixref = s.pixref := rfl
@[simp] theorem clockOut_resetGap (n : Nat) (s : State) : (clockOut n s).resetGap = s.resetGap := rfl
@[simp] theorem clockOut_wordCount (n : Nat) (s : State) : (clockOut n s).wordCount = s.wordCount := rfl
@[simp] theorem clockOut_valid (n : Nat) (s : State) : (clockOut n s).valid = s.valid := rfl
@[simp] theorem clockOut_brightness (n : Nat) (s : State) : (clockOut n s).brightness = s.brightness := rfl
@[simp] theorem clockOut_correction (n : Nat) (s : State) : (clockOut n s).correction = s.correction := rfl
@[simp] theorem clockOut_result (n : Nat) (s : State) : (clockOut n s).result = s.result := rfl
@[simp] theorem clockOut_faulted (n : Nat) (s : State) : (clockOut n s).faulted = s.faulted := rfl
@[simp] theorem clockOut_inFlight (n : Nat) (s : State) : (clockOut n s).inFlight = s.inFlight := rfl
@[simp] theorem clockOut_phase (n : Nat) (s : State) : (clockOut n s).phase = s.phase := rfl
@[simp] theorem clockOut_pi (n : Nat) (s : State) : (clockOut n s).pi = s.pi := rfl
@[simp] theorem clockOut_wp (n : Nat) (s : State) : (clockOut n s).wp = s.wp := rfl
@[simp] theorem clockOut_work (n : Nat) (s : State) : (clockOut n s).work = s.work := rfl
@[simp] theorem clockOut_muxOut (n : Nat) (s : State) : (clockOut n s).muxOut = s.muxOut := rfl
@[simp] theorem clockOut_encOut (n : Nat) (s : State) : (clockOut n s).encOut = s.encOut := rfl
@[simp] theorem clockOut_lutOut (n : Nat) (s : State) : (clockOut n s).lutOut = s.lutOut := rfl
@[simp] theorem clockOut_bufs (n : Nat) (s : State) : (clockOut n s).bufs = s.bufs := rfl
@[simp] theorem clockOut_pix (n : Nat) (s : State) : (clockOut n s).pix = s.pix := rfl
@[simp] theorem clockOut_txb (n : Nat) (s : State) : (clockOut n s).txb = s.txb := rfl
@[simp] theorem clockOut_txbBytes (n : Nat) (s : State) : (clockOut n s).txbBytes = s.txbBytes := rfl
@[simp] theorem clockOut_line (n : Nat) (s : State) : (clockOut n s).line = s.line ++ ((frameBits s).drop s.sent).take n := rfl
@[simp] theorem clockOut_hostByte (n : Nat) (s : State) : (clockOut n s).hostByte = s.hostByte := rfl
@[simp] theorem clockOut_calls (n : Nat) (s : State) : (clockOut n s).calls = s.calls := rfl
@[simp] theorem clockOut_plat (n : Nat) (s : State) : (clockOut n s).plat = s.plat := rfl
@[simp] theorem clockOut_port (n : Nat) (s : State) : (clockOut n s).port = s.port := rfl

@[simp] theorem submitTx_pin (s : State) : (submitTx s).pin = s.pin := rfl
@[simp] theorem submitTx_model (s : State) : (submitTx s).model = s.model := rfl
@[simp] theorem submitTx_leds (s : State) : (submitTx s).leds = s.leds := rfl
@[simp] theorem submitTx_pixref (s : State) : (submitTx s).pixref = s.pixref := rfl
@[simp] theorem submitTx_resetGap (s : State) : (submitTx s).resetGap = s.resetGap := rfl
@[simp] theorem submitTx_wordCount (s : State) : (submitTx s).wordCount = s.wordCount := rfl
@[simp] theorem submitTx_valid (s : State) : (submitTx s).valid = s.valid := rfl
@[simp] theorem submitTx_brightness (s : State) : (submitTx s).brightness = s.brightness := rfl
@[simp] theorem submitTx_correction (s : State) : (submitTx s).correction = s.correction := rfl
@[simp] theorem submitTx_result (s : State) : (submitTx s).result = s.result := rfl
@[simp] theorem submitTx_faulted (s : State) : (submitTx s).faulted = s.faulted := rfl
@[simp] theorem submitTx_inFlight (s : State) : (submitTx s).inFlight = true := rfl
@[simp] theorem submitTx_phase (s : State) : (submitTx s).phase = .waiting := rfl
@[simp] theorem submitTx_pi (s : State) : (submitTx s).pi = s.pi := rfl
@[simp] theorem submitTx_wp (s : State) : (submitTx s).wp = s.wp := rfl
@[simp] theorem submitTx_work (s : State) : (submitTx s).work = s.work := rfl
@[simp] theorem submitTx_muxOut (s : State) : (submitTx s).muxOut = s.muxOut := rfl
@[simp] theorem submitTx_encOut (s : State) : (submitTx s).encOut = s.encOut := rfl
@[simp] theorem submitTx_lutOut (s : State) : (submitTx s).lutOut = s.lutOut := rfl
@[simp] theorem submitTx_bufs (s : State) : (submitTx s).bufs = s.bufs := rfl
@[simp] theorem submitTx_pix (s : State) : (submitTx s).pix = s.pix := rfl
@[simp] theorem submitTx_txb (s : State) : (submitTx s).txb = s.txb := rfl
@[simp] theorem submitTx_txbBytes (s : State) : (submitTx s).txbBytes = s.txbBytes := rfl
@[simp] theorem submitTx_line (s : State) : (submitTx s).line = s.line := rfl
@[simp] theorem submitTx_sent (s : State) : (submitTx s).sent = 0 := rfl
@[simp] theorem submitTx_hostByte (s : State) : (submitTx s).hostByte = s.hostByte := rfl
@[simp] theorem submitTx_calls (s : State) : (submitTx s).calls = s.calls ++ [.transmit (transferBits s)] := rfl
@[simp] theorem submitTx_plat (s : State) : (submitTx s).plat = s.plat := rfl
@[simp] theorem submitTx_port (s : State) : (submitTx s).port = s.port := rfl

@[simp] theorem lookup_pin (n : Nibble) (s : State) : (lookup n s).pin = s.pin := rfl
@[simp] theorem lookup_model (n : Nibble) (s : State) : (lookup n s).model = s.model := rfl
@[simp] theorem lookup_leds (n : Nibble) (s : State) : (lookup n s).leds = s.leds := rfl
@[simp] theorem lookup_pixref (n : Nibble) (s : State) : (lookup n s).pixref = s.pixref := rfl
@[simp] theorem lookup_resetGap (n : Nibble) (s : State) : (lookup n s).resetGap = s.resetGap := rfl
@[simp] theorem lookup_wordCount (n : Nibble) (s : State) : (lookup n s).wordCount = s.wordCount := rfl
@[simp] theorem lookup_valid (n : Nibble) (s : State) : (lookup n s).valid = s.valid := rfl
@[simp] theorem lookup_brightness (n : Nibble) (s : State) : (lookup n s).brightness = s.brightness := rfl
@[simp] theorem lookup_correction (n : Nibble) (s : State) : (lookup n s).correction = s.correction := rfl
@[simp] theorem lookup_result (n : Nibble) (s : State) : (lookup n s).result = s.result := rfl
@[simp] theorem lookup_faulted (n : Nibble) (s : State) : (lookup n s).faulted = s.faulted := rfl
@[simp] theorem lookup_inFlight (n : Nibble) (s : State) : (lookup n s).inFlight = s.inFlight := rfl
@[simp] theorem lookup_phase (n : Nibble) (s : State) : (lookup n s).phase = s.phase := rfl
@[simp] theorem lookup_pi (n : Nibble) (s : State) : (lookup n s).pi = s.pi := rfl
@[simp] theorem lookup_wp (n : Nibble) (s : State) : (lookup n s).wp = s.wp := rfl
@[simp] theorem lookup_work (n : Nibble) (s : State) : (lookup n s).work = s.work := rfl
@[simp] theorem lookup_muxOut (n : Nibble) (s : State) : (lookup n s).muxOut = s.muxOut := rfl
@[simp] theorem lookup_encOut (n : Nibble) (s : State) : (lookup n s).encOut = s.encOut := rfl
@[simp] theorem lookup_lutOut (n : Nibble) (s : State) : (lookup n s).lutOut = table n := rfl
@[simp] theorem lookup_bufs (n : Nibble) (s : State) : (lookup n s).bufs = s.bufs := rfl
@[simp] theorem lookup_pix (n : Nibble) (s : State) : (lookup n s).pix = s.pix := rfl
@[simp] theorem lookup_txb (n : Nibble) (s : State) : (lookup n s).txb = s.txb := rfl
@[simp] theorem lookup_txbBytes (n : Nibble) (s : State) : (lookup n s).txbBytes = s.txbBytes := rfl
@[simp] theorem lookup_line (n : Nibble) (s : State) : (lookup n s).line = s.line := rfl
@[simp] theorem lookup_sent (n : Nibble) (s : State) : (lookup n s).sent = s.sent := rfl
@[simp] theorem lookup_hostByte (n : Nibble) (s : State) : (lookup n s).hostByte = s.hostByte := rfl
@[simp] theorem lookup_calls (n : Nibble) (s : State) : (lookup n s).calls = s.calls := rfl
@[simp] theorem lookup_plat (n : Nibble) (s : State) : (lookup n s).plat = s.plat := rfl
@[simp] theorem lookup_port (n : Nibble) (s : State) : (lookup n s).port = s.port := rfl

@[simp] theorem encStage_pin (v : Byte) (s : State) : (encStage v s).pin = s.pin := rfl
@[simp] theorem encStage_model (v : Byte) (s : State) : (encStage v s).model = s.model := rfl
@[simp] theorem encStage_leds (v : Byte) (s : State) : (encStage v s).leds = s.leds := rfl
@[simp] theorem encStage_pixref (v : Byte) (s : State) : (encStage v s).pixref = s.pixref := rfl
@[simp] theorem encStage_resetGap (v : Byte) (s : State) : (encStage v s).resetGap = s.resetGap := rfl
@[simp] theorem encStage_wordCount (v : Byte) (s : State) : (encStage v s).wordCount = s.wordCount := rfl
@[simp] theorem encStage_valid (v : Byte) (s : State) : (encStage v s).valid = s.valid := rfl
@[simp] theorem encStage_brightness (v : Byte) (s : State) : (encStage v s).brightness = s.brightness := rfl
@[simp] theorem encStage_correction (v : Byte) (s : State) : (encStage v s).correction = s.correction := rfl
@[simp] theorem encStage_result (v : Byte) (s : State) : (encStage v s).result = s.result := rfl
@[simp] theorem encStage_faulted (v : Byte) (s : State) : (encStage v s).faulted = s.faulted := rfl
@[simp] theorem encStage_inFlight (v : Byte) (s : State) : (encStage v s).inFlight = s.inFlight := rfl
@[simp] theorem encStage_phase (v : Byte) (s : State) : (encStage v s).phase = s.phase := rfl
@[simp] theorem encStage_pi (v : Byte) (s : State) : (encStage v s).pi = s.pi := rfl
@[simp] theorem encStage_wp (v : Byte) (s : State) : (encStage v s).wp = s.wp := rfl
@[simp] theorem encStage_work (v : Byte) (s : State) : (encStage v s).work = s.work := rfl
@[simp] theorem encStage_muxOut (v : Byte) (s : State) : (encStage v s).muxOut = s.muxOut := rfl
@[simp] theorem encStage_encOut (v : Byte) (s : State) : (encStage v s).encOut = encPair v := rfl
@[simp] theorem encStage_lutOut (v : Byte) (s : State) : (encStage v s).lutOut = table (loNibble v) := rfl
@[simp] theorem encStage_bufs (v : Byte) (s : State) : (encStage v s).bufs = s.bufs := rfl
@[simp] theorem encStage_pix (v : Byte) (s : State) : (encStage v s).pix = s.pix := rfl
@[simp] theorem encStage_txb (v : Byte) (s : State) : (encStage v s).txb = s.txb := rfl
@[simp] theorem encStage_txbBytes (v : Byte) (s : State) : (encStage v s).txbBytes = s.txbBytes := rfl
@[simp] theorem encStage_line (v : Byte) (s : State) : (encStage v s).line = s.line := rfl
@[simp] theorem encStage_sent (v : Byte) (s : State) : (encStage v s).sent = s.sent := rfl
@[simp] theorem encStage_hostByte (v : Byte) (s : State) : (encStage v s).hostByte = s.hostByte := rfl
@[simp] theorem encStage_calls (v : Byte) (s : State) : (encStage v s).calls = s.calls := rfl
@[simp] theorem encStage_plat (v : Byte) (s : State) : (encStage v s).plat = s.plat := rfl
@[simp] theorem encStage_port (v : Byte) (s : State) : (encStage v s).port = s.port := rfl

@[simp] theorem muxStage_pin (p : Pixel) (s : State) : (muxStage p s).pin = s.pin := rfl
@[simp] theorem muxStage_model (p : Pixel) (s : State) : (muxStage p s).model = s.model := rfl
@[simp] theorem muxStage_leds (p : Pixel) (s : State) : (muxStage p s).leds = s.leds := rfl
@[simp] theorem muxStage_pixref (p : Pixel) (s : State) : (muxStage p s).pixref = s.pixref := rfl
@[simp] theorem muxStage_resetGap (p : Pixel) (s : State) : (muxStage p s).resetGap = s.resetGap := rfl
@[simp] theorem muxStage_wordCount (p : Pixel) (s : State) : (muxStage p s).wordCount = s.wordCount := rfl
@[simp] theorem muxStage_valid (p : Pixel) (s : State) : (muxStage p s).valid = s.valid := rfl
@[simp] theorem muxStage_brightness (p : Pixel) (s : State) : (muxStage p s).brightness = s.brightness := rfl
@[simp] theorem muxStage_correction (p : Pixel) (s : State) : (muxStage p s).correction = s.correction := rfl
@[simp] theorem muxStage_result (p : Pixel) (s : State) : (muxStage p s).result = s.result := rfl
@[simp] theorem muxStage_faulted (p : Pixel) (s : State) : (muxStage p s).faulted = s.faulted := rfl
@[simp] theorem muxStage_inFlight (p : Pixel) (s : State) : (muxStage p s).inFlight = s.inFlight := rfl
@[simp] theorem muxStage_phase (p : Pixel) (s : State) : (muxStage p s).phase = s.phase := rfl
@[simp] theorem muxStage_pi (p : Pixel) (s : State) : (muxStage p s).pi = s.pi := rfl
@[simp] theorem muxStage_wp (p : Pixel) (s : State) : (muxStage p s).wp = s.wp := rfl
@[simp] theorem muxStage_work (p : Pixel) (s : State) : (muxStage p s).work = s.work := rfl
@[simp] theorem muxStage_muxOut (p : Pixel) (s : State) : (muxStage p s).muxOut = muxOrder s.model p := rfl
@[simp] theorem muxStage_encOut (p : Pixel) (s : State) : (muxStage p s).encOut = s.encOut := rfl
@[simp] theorem muxStage_lutOut (p : Pixel) (s : State) : (muxStage p s).lutOut = s.lutOut := rfl
@[simp] theorem muxStage_bufs (p : Pixel) (s : State) : (muxStage p s).bufs = s.bufs := rfl
@[simp] theorem muxStage_pix (p : Pixel) (s : State) : (muxStage p s).pix = s.pix := rfl
@[simp] theorem muxStage_txb (p : Pixel) (s : State) : (muxStage p s).txb = s.txb := rfl
@[simp] theorem muxStage_txbBytes (p : Pixel) (s : State) : (muxStage p s).txbBytes = s.txbBytes := rfl
@[simp] theorem muxStage_line (p : Pixel) (s : State) : (muxStage p s).line = s.line := rfl
@[simp] theorem muxStage_sent (p : Pixel) (s : State) : (muxStage p s).sent = s.sent := rfl
@[simp] theorem muxStage_hostByte (p : Pixel) (s : State) : (muxStage p s).hostByte = s.hostByte := rfl
@[simp] theorem muxStage_calls (p : Pixel) (s : State) : (muxStage p s).calls = s.calls := rfl
@[simp] theorem muxStage_plat (p : Pixel) (s : State) : (muxStage p s).plat = s.plat := rfl
@[simp] theorem muxStage_port (p : Pixel) (s : State) : (muxStage p s).port = s.port := rfl

@[simp] theorem writeChan_pin (ref : Handle) (i : Nat) (c : Chan) (v : Byte) (s : State) : (writeChan ref i c v s).pin = s.pin := rfl
@[simp] theorem writeChan_model (ref : Handle) (i : Nat) (c : Chan) (v : Byte) (s : State) : (writeChan ref i c v s).model = s.model := rfl
@[simp] theorem writeChan_leds (ref : Handle) (i : Nat) (c : Chan) (v : Byte) (s : State) : (writeChan ref i c v s).leds = s.leds := rfl
@[simp] theorem writeChan_pixref (ref : Handle) (i : Nat) (c : Chan) (v : Byte) (s : State) : (writeChan ref i c v s).pixref = s.pixref := rfl
@[simp] theorem writeChan_resetGap (ref : Handle) (i : Nat) (c : Chan) (v : Byte) (s : State) : (writeChan ref i c v s).resetGap = s.resetGap := rfl
@[simp] theorem writeChan_wordCount (ref : Handle) (i : Nat) (c : Chan) (v : Byte) (s : State) : (writeChan ref i c v s).wordCount = s.wordCount := rfl
@[simp] theorem writeChan_valid (ref : Handle) (i : Nat) (c : Chan) (v : Byte) (s : State) : (writeChan ref i c v s).valid = s.valid := rfl
@[simp] theorem writeChan_brightness (ref : Handle) (i : Nat) (c : Chan) (v : Byte) (s : State) : (writeChan ref i c v s).brightness = s.brightness := rfl
@[simp] theorem writeChan_correction (ref : Handle) (i : Nat) (c : Chan) (v : Byte) (s : State) : (writeChan ref i c v s).correction = s.correction := rfl
@[simp] theorem writeChan_result (ref : Handle) (i : Nat) (c : Chan) (v : Byte) (s : State) : (writeChan ref i c v s).result = s.result := rfl
@[simp] theorem writeChan_faulted (ref : Handle) (i : Nat) (c : Chan) (v : Byte) (s : State) : (writeChan ref i c v s).faulted = s.faulted := rfl
@[simp] theorem writeChan_inFlight (ref : Handle) (i : Nat) (c : Chan) (v : Byte) (s : State) : (writeChan ref i c v s).inFlight = s.inFlight := rfl
@[simp] theorem writeChan_phase (ref : Handle) (i : Nat) (c : Chan) (v : Byte) (s : State) : (writeChan ref i c v s).phase = s.phase := rfl
@[simp] theorem writeChan_pi (ref : Handle) (i : Nat) (c : Chan) (v : Byte) (s : State) : (writeChan ref i c v s).pi = s.pi := rfl
@[simp] theorem writeChan_wp (ref : Handle) (i : Nat) (c : Chan) (v : Byte) (s : State) : (writeChan ref i c v s).wp = s.wp := rfl
@[simp] theorem writeChan_work (ref : Handle) (i : Nat) (c : Chan) (v : Byte) (s : State) : (writeChan ref i c v s).work = s.work := rfl
@[simp] theorem writeChan_muxOut (ref : Handle) (i : Nat) (c : Chan) (v : Byte) (s : State) : (writeChan ref i c v s).muxOut = s.muxOut := rfl
@[simp] theorem writeChan_encOut (ref : Handle) (i : Nat) (c : Chan) (v : Byte) (s : State) : (writeChan ref i c v s).encOut = s.encOut := rfl
@[simp] theorem writeChan_lutOut (ref : Handle) (i : Nat) (c : Chan) (v : Byte) (s : State) : (writeChan ref i c v s).lutOut = s.lutOut := rfl
@[simp] theorem writeChan_bufs (ref : Handle) (i : Nat) (c : Chan) (v : Byte) (s : State) : (writeChan ref i c v s).bufs = s.bufs := rfl
@[simp] theorem writeChan_pix (ref : Handle) (i : Nat) (c : Chan) (v : Byte) (s : State) : (writeChan ref i c v s).pix = Memory.put s.pix (pixKey ref i c) v := rfl
@[simp] theorem writeChan_txb (ref : Handle) (i : Nat) (c : Chan) (v : Byte) (s : State) : (writeChan ref i c v s).txb = s.txb := rfl
@[simp] theorem writeChan_txbBytes (ref : Handle) (i : Nat) (c : Chan) (v : Byte) (s : State) : (writeChan ref i c v s).txbBytes = s.txbBytes := rfl
@[simp] theorem writeChan_line (ref : Handle) (i : Nat) (c : Chan) (v : Byte) (s : State) : (writeChan ref i c v s).line = s.line := rfl
@[simp] theorem writeChan_sent (ref : Handle) (i : Nat) (c : Chan) (v : Byte) (s : State) : (writeChan ref i c v s).sent = s.sent := rfl
@[simp] theorem writeChan_hostByte (ref : Handle) (i : Nat) (c : Chan) (v : Byte) (s : State) : (writeChan ref i c v s).hostByte = s.hostByte := rfl
@[simp] theorem writeChan_calls (ref : Handle) (i : Nat) (c : Chan) (v : Byte) (s : State) : (writeChan ref i c v s).calls = s.calls := rfl
@[simp] theorem writeChan_plat (ref : Handle) (i : Nat) (c : Chan) (v : Byte) (s : State) : (writeChan ref i c v s).plat = s.plat := rfl
@[simp] theorem writeChan_port (ref : Handle) (i : Nat) (c : Chan) (v : Byte) (s : State) : (writeChan ref i c v s).port = s.port := rfl

@[simp] theorem setBuf_pin (ref : Handle) (x : HostBuf) (s : State) : (setBuf ref x s).pin = s.pin := rfl
@[simp] theorem setBuf_model (ref : Handle) (x : HostBuf) (s : State) : (setBuf ref x s).model = s.model := rfl
@[simp] theorem setBuf_leds (ref : Handle) (x : HostBuf) (s : State) : (setBuf ref x s).leds = s.leds := rfl
@[simp] theorem setBuf_pixref (ref : Handle) (x : HostBuf) (s : State) : (setBuf ref x s).pixref = s.pixref := rfl
@[simp] theorem setBuf_resetGap (ref : Handle) (x : HostBuf) (s : State) : (setBuf ref x s).resetGap = s.resetGap := rfl
@[simp] theorem setBuf_wordCount (ref : Handle) (x : HostBuf) (s : State) : (setBuf ref x s).wordCount = s.wordCount := rfl
@[simp] theorem setBuf_valid (ref : Handle) (x : HostBuf) (s : State) : (setBuf ref x s).valid = s.valid := rfl
@[simp] theorem setBuf_brightness (ref : Handle) (x : HostBuf) (s : State) : (setBuf ref x s).brightness = s.brightness := rfl
@[simp] theorem setBuf_correction (ref : Handle) (x : HostBuf) (s : State) : (setBuf ref x s).correction = s.correction := rfl
@[simp] theorem setBuf_result (ref : Handle) (x : HostBuf) (s : State) : (setBuf ref x s).result = s.result := rfl
@[simp] theorem setBuf_faulted (ref : Handle) (x : HostBuf) (s : State) : (setBuf ref x s).faulted = s.faulted := rfl
@[simp] theorem setBuf_inFlight (ref : Handle) (x : HostBuf) (s : State) : (setBuf ref x s).inFlight = s.inFlight := rfl
@[simp] theorem setBuf_phase (ref : Handle) (x : HostBuf) (s : State) : (setBuf ref x s).phase = s.phase := rfl
@[simp] theorem setBuf_pi (ref : Handle) (x : HostBuf) (s : State) : (setBuf ref x s).pi = s.pi := rfl
@[simp] theorem setBuf_wp (ref : Handle) (x : HostBuf) (s : State) : (setBuf ref x s).wp = s.wp := rfl
@[simp] theorem setBuf_work (ref : Handle) (x : HostBuf) (s : State) : (setBuf ref x s).work = s.work := rfl
@[simp] theorem setBuf_muxOut (ref : Handle) (x : HostBuf) (s : State) : (setBuf ref x s).muxOut = s.muxOut := rfl
@[simp] theorem setBuf_encOut (ref : Handle) (x : HostBuf) (s : State) : (setBuf ref x s).encOut = s.encOut := rfl
@[simp] theorem setBuf_lutOut (ref : Handle) (x : HostBuf) (s : State) : (setBuf ref x s).lutOut = s.lutOut := rfl
@[simp] theorem setBuf_pix (ref : Handle) (x : HostBuf) (s : State) : (setBuf ref x s).pix = s.pix := rfl
@[simp] theorem setBuf_txb (ref : Handle) (x : HostBuf) (s : State) : (setBuf ref x s).txb = s.txb := rfl
@[simp] theorem setBuf_txbBytes (ref : Handle) (x : HostBuf) (s : State) : (setBuf ref x s).txbBytes = s.txbBytes := rfl
@[simp] theorem setBuf_line (ref : Handle) (x : HostBuf) (s : State) : (setBuf ref x s).line = s.line := rfl
@[simp] theorem setBuf_sent (ref : Handle) (x : HostBuf) (s : State) : (setBuf ref x s).sent = s.sent := rfl
@[simp] theorem setBuf_hostByte (ref : Handle) (x : HostBuf) (s : State) : (setBuf ref x s).hostByte = s.hostByte := rfl
@[simp] theorem setBuf_calls (ref : Handle) (x : HostBuf) (s : State) : (setBuf ref x s).calls = s.calls := rfl
@[simp] theorem setBuf_plat (ref : Handle) (x : HostBuf) (s : State) : (setBuf ref x s).plat = s.plat := rfl
@[simp] theorem setBuf_port (ref : Handle) (x : HostBuf) (s : State) : (setBuf ref x s).port = s.port := rfl

end Sys2Proof.Machine
end

