-- ==== Sys2Proof/Laws/Pixels.lean ====
section
/-! SUPPORT. Laws of pixel memory: keys, channel and pixel accesses, FILL's loop. -/

namespace Sys2Proof.Machine

theorem chanCode_lt (c : Chan) : chanCode c < 4 := by cases c <;> decide

theorem chanCode_inj {c d : Chan} (h : chanCode c = chanCode d) : c = d := by
  cases c <;> cases d <;> first | rfl | exact absurd h (by decide)

/-- Cells with different handles, indices or channels have different keys. -/
theorem pixKey_inj {h h' : Handle} {i j : Nat} {c d : Chan} (hi : i < 65536) (hj : j < 65536)
    (e : pixKey h i c = pixKey h' j d) : h = h' ∧ i = j ∧ c = d := by
  have := chanCode_lt c
  have := chanCode_lt d
  unfold pixKey at e
  refine ⟨BitVec.eq_of_toNat_eq (by omega), by omega, chanCode_inj (by omega)⟩

/-- A store reads back in its own cell and leaves every other cell alone. -/
theorem readChan_writeChan {ref h : Handle} {i j : Nat} (hi : i < 65536) (hj : j < 65536) (c d : Chan) (v : Byte)
    (s : State) :
    readChan h j d (writeChan ref i c v s) = if h = ref ∧ j = i ∧ d = c then v else readChan h j d s := by
  simp only [readChan, writeChan_pix, Memory.get_put]
  by_cases e : pixKey h j d = pixKey ref i c
  · rw [if_pos e, if_pos (pixKey_inj hj hi e)]
    rfl
  · rw [if_neg e, if_neg (by rintro ⟨rfl, rfl, rfl⟩; exact e rfl)]
    rfl

/-- Writing a pixel changes its own three channels only. -/
theorem readChan_writePixel {ref h : Handle} {i j : Nat} (hi : i < 65536) (hj : j < 65536) (d : Chan) (p : Pixel)
    (s : State) :
    readChan h j d (writePixel ref i p s) = if h = ref ∧ j = i then chanOf p d else readChan h j d s := by
  simp only [writePixel, readChan_writeChan hi hj]
  cases d <;> by_cases e : h = ref ∧ j = i <;> simp [chanOf, e]

theorem readPixel_writePixel {ref h : Handle} {i j : Nat} (hi : i < 65536) (hj : j < 65536) (p : Pixel) (s : State) :
    readPixel h j (writePixel ref i p s) = if h = ref ∧ j = i then p else readPixel h j s := by
  simp only [readPixel, readChan_writePixel hi hj]
  split_ifs <;> rfl

/-- Everything but pixel memory is as it was. -/
theorem writePixel_frame (ref : Handle) (i : Nat) (p : Pixel) (s : State) :
    writePixel ref i p s = { s with pix := (writePixel ref i p s).pix } := rfl

theorem writePixel_wf {s : State} (h : Memory.wf s.pix = true) (ref : Handle) (i : Nat) (p : Pixel) :
    Memory.wf (writePixel ref i p s).pix = true :=
  Memory.put_wf (Memory.put_wf (Memory.put_wf h _ _) _ _) _ _

/-- A loop that writes pixels keeps every field but pixel memory. -/
theorem fillPixels_frame (p : Pixel) (lo hi : Nat) (s : State) :
    fillPixels p lo hi s = { s with pix := (fillPixels p lo hi s).pix } := by
  unfold fillPixels
  generalize List.range' lo (hi - lo) = l
  induction l generalizing s with
  | nil => rfl
  | cons i l ih =>
    rw [List.foldl_cons, ih, writePixel_frame]

theorem fillPixels_wf {s : State} (h : Memory.wf s.pix = true) (p : Pixel) (lo hi : Nat) :
    Memory.wf (fillPixels p lo hi s).pix = true := by
  unfold fillPixels
  generalize List.range' lo (hi - lo) = l
  induction l generalizing s with
  | nil => exact h
  | cons i l ih => exact ih (writePixel_wf h _ _ _)

/-- FILL's loop, read by channel: inside the range of the session's buffer the colour, elsewhere what was there. -/
theorem readChan_fillPixels {lo hi : Nat} (hhi : hi ≤ 65536) {h : Handle} {j : Nat} (hj : j < 65536) (d : Chan)
    (p : Pixel) (s : State) :
    readChan h j d (fillPixels p lo hi s) =
      if h = s.pixref ∧ lo ≤ j ∧ j < hi then chanOf p d else readChan h j d s := by
  unfold fillPixels
  obtain ⟨n, hn⟩ : ∃ n, n = hi - lo := ⟨_, rfl⟩
  rw [← hn]
  induction n generalizing lo s with
  | zero =>
    rw [if_neg (by omega)]
    rfl
  | succ n ih =>
    have hlo : lo < 65536 := by omega
    rw [List.range'_succ, List.foldl_cons, ih (lo := lo + 1) _ (by omega),
      readChan_writePixel hlo hj]
    by_cases e : h = s.pixref
    · subst e
      have : (writePixel s.pixref lo p s).pixref = s.pixref := rfl
      simp only [this, true_and]
      split_ifs <;> first | rfl | omega
    · have : (writePixel s.pixref lo p s).pixref = s.pixref := rfl
      simp [this, e]

/-- What a handle names after an update of the table: the new entry there, the old one elsewhere. -/
theorem bufAt_setBuf {s : State} (hw : Memory.wf s.bufs = true) (ref h : Handle) (x : HostBuf) :
    bufAt h (setBuf ref x s) = if h = ref then x else bufAt h s := by
  have hne : h.toNat = ref.toNat ↔ h = ref := by
    constructor
    · exact BitVec.eq_of_toNat_eq
    · rintro rfl; rfl
  simp only [bufAt, setBuf]
  by_cases hx : x = HostBuf.fresh
  · rw [if_pos hx, Memory.get_del hw]
    simp only [hne]
    split_ifs <;> simp [hx]
  · rw [if_neg hx, Memory.get_put]
    simp only [hne]
    split_ifs <;> simp

theorem setBuf_wf {s : State} (h : bufsWf s.bufs = true) (ref : Handle) (x : HostBuf) :
    bufsWf (setBuf ref x s).bufs = true := by
  simp only [bufsWf, Bool.and_eq_true, List.all_eq_true, decide_eq_true_eq] at h ⊢
  obtain ⟨hw, ha⟩ := h
  simp only [setBuf]
  split_ifs with hx
  · exact ⟨Memory.del_wf hw _, fun e he => ha e (Memory.mem_del he)⟩
  · refine ⟨Memory.put_wf hw _ _, fun e he => ?_⟩
    rcases Memory.mem_put he with rfl | he
    · exact hx
    · exact ha e he

/-! ### Releasing a pixel memory (R33 (c), R170) -/

theorem releasePix_frame (ref : Handle) (s : State) : releasePix ref s = { s with bufs := (releasePix ref s).bufs } := rfl

theorem released_ne_fresh (n : Count) (g : Nat) : (⟨n, .released, g⟩ : HostBuf) ≠ HostBuf.fresh := by
  intro h
  have := congrArg HostBuf.own h
  simp [HostBuf.fresh] at this

theorem bufAt_releasePix (ref h : Handle) (s : State) :
    bufAt h (releasePix ref s) = if h = ref then ⟨(bufAt ref s).len, .released, (bufAt ref s).gen⟩ else bufAt h s := by
  have hne : h.toNat = ref.toNat ↔ h = ref := ⟨BitVec.eq_of_toNat_eq, fun e => by rw [e]⟩
  have e : (releasePix ref s).bufs = Memory.put s.bufs ref.toNat ⟨(bufAt ref s).len, .released, (bufAt ref s).gen⟩ :=
    if_neg (released_ne_fresh _ _)
  unfold bufAt at e ⊢
  rw [e, Memory.get_put]
  simp only [hne]
  split_ifs <;> rfl

theorem releasePix_wf {s : State} (h : bufsWf s.bufs = true) (ref : Handle) : bufsWf (releasePix ref s).bufs = true :=
  setBuf_wf h _ _

end Sys2Proof.Machine
end

