-- ==== Sys2Proof/Laws/Txb.lean ====
section
/-! SUPPORT. Laws of TXB and of BUILD's loops: what each pushes, where, and what it leaves alone. -/

namespace Sys2Proof.Machine

/-! ### What the stages may write -/

theorem StagesOnly.refl (s : State) : StagesOnly s s := rfl

theorem StagesOnly.trans {s t u : State} (h : StagesOnly s t) (h' : StagesOnly t u) : StagesOnly s u := by
  unfold StagesOnly at *
  rw [h', h]

theorem StagesOnly.leds {s t : State} (h : StagesOnly s t) : t.leds = s.leds := by rw [h]
theorem StagesOnly.wordCount {s t : State} (h : StagesOnly s t) : t.wordCount = s.wordCount := by rw [h]
theorem StagesOnly.resetGap {s t : State} (h : StagesOnly s t) : t.resetGap = s.resetGap := by rw [h]
theorem StagesOnly.model {s t : State} (h : StagesOnly s t) : t.model = s.model := by rw [h]
theorem StagesOnly.pixref {s t : State} (h : StagesOnly s t) : t.pixref = s.pixref := by rw [h]
theorem StagesOnly.brightness {s t : State} (h : StagesOnly s t) : t.brightness = s.brightness := by rw [h]
theorem StagesOnly.correction {s t : State} (h : StagesOnly s t) : t.correction = s.correction := by rw [h]
theorem StagesOnly.bufs {s t : State} (h : StagesOnly s t) : t.bufs = s.bufs := by rw [h]
theorem StagesOnly.bufAt {s t : State} (h : StagesOnly s t) (ref : Handle) : bufAt ref t = bufAt ref s := by
  simp only [Machine.bufAt, h.bufs]

/-- Pixel reads depend on pixel memory and the table of pixel memories only. -/
theorem readChan_congr {s t : State} (hp : t.pix = s.pix) (hb : t.bufs = s.bufs) (ref : Handle) (i : Nat) (c : Chan) :
    readChan ref i c t = readChan ref i c s := by
  simp only [readChan, bufAt, hp, hb]

theorem readPixel_congr {s t : State} (hp : t.pix = s.pix) (hb : t.bufs = s.bufs) (ref : Handle) (i : Nat) :
    readPixel ref i t = readPixel ref i s := by
  simp only [readPixel, readChan_congr hp hb]

/-- PRE's result depends on the settings, the session's buffer and pixel memory only. -/
theorem adjusted_congr {s t : State} (h : StagesOnly s t) {i : Nat}
    (hr : readPixel s.pixref i t = readPixel s.pixref i s) : adjusted t i = adjusted s i := by
  simp only [adjusted, h.brightness, h.correction, h.pixref, hr]

/-! ### One word -/

theorem writeTxb_stages (k : Nat) (w : Word) (s : State) : StagesOnly s (writeTxb k w s) := by
  unfold writeTxb StagesOnly
  split_ifs <;> rfl

theorem pushTxb_stages (w : Word) (s : State) : StagesOnly s (pushTxb w s) := by
  unfold pushTxb writeTxb StagesOnly
  split_ifs <;> rfl

@[simp] theorem writeTxb_wp (k : Nat) (w : Word) (s : State) : (writeTxb k w s).wp = s.wp := by
  unfold writeTxb; split_ifs <;> rfl
@[simp] theorem writeTxb_pix (k : Nat) (w : Word) (s : State) : (writeTxb k w s).pix = s.pix := by
  unfold writeTxb; split_ifs <;> rfl
@[simp] theorem pushTxb_wp (w : Word) (s : State) : (pushTxb w s).wp = s.wp + 1 := rfl
@[simp] theorem pushTxb_pix (w : Word) (s : State) : (pushTxb w s).pix = s.pix := writeTxb_pix _ _ _
@[simp] theorem pushTxb_encOut (w : Word) (s : State) : (pushTxb w s).encOut = s.encOut := by
  unfold pushTxb writeTxb; split_ifs <;> rfl
@[simp] theorem pushTxb_muxOut (w : Word) (s : State) : (pushTxb w s).muxOut = s.muxOut := by
  unfold pushTxb writeTxb; split_ifs <;> rfl
@[simp] theorem pushTxb_wordCount (w : Word) (s : State) : (pushTxb w s).wordCount = s.wordCount :=
  (pushTxb_stages w s).wordCount

theorem readTxb_writeTxb (j k : Nat) (w : Word) (s : State) :
    readTxb j (writeTxb k w s) = if j = k ∧ k < s.wordCount then w else readTxb j s := by
  unfold writeTxb readTxb
  by_cases hs : k < s.wordCount
  · simp only [hs, if_true, and_true, Memory.get_put]
    split_ifs <;> rfl
  · simp [hs]

/-- The sequential fill reads back: the pushed word at the old `WP`, everything else as it was. -/
theorem readTxb_pushTxb (j : Nat) (w : Word) (s : State) :
    readTxb j (pushTxb w s) = if j = s.wp ∧ s.wp < s.wordCount then w else readTxb j s := by
  unfold pushTxb writeTxb readTxb
  by_cases hs : s.wp < s.wordCount
  · simp only [hs, if_true, and_true, Memory.get_put]
    split_ifs <;> rfl
  · simp [hs]

/-- A TXB whose entries lie inside the buffer. -/
def TxbInside (s : State) : Prop := ∀ e ∈ s.txb, e.1 < s.wordCount

theorem writeTxb_inside {s : State} (h : TxbInside s) (k : Nat) (w : Word) : TxbInside (writeTxb k w s) := by
  unfold TxbInside
  rw [(writeTxb_stages k w s).wordCount]
  unfold writeTxb
  split_ifs with hk
  · intro e he
    rcases Memory.mem_put he with rfl | he
    · exact hk
    · exact h e he
  · exact h

theorem writeTxb_wf {s : State} (h : Memory.wf s.txb = true) (k : Nat) (w : Word) :
    Memory.wf (writeTxb k w s).txb = true := by
  unfold writeTxb
  split_ifs
  · exact Memory.put_wf h _ _
  · exact h

theorem pushTxb_inside {s : State} (h : TxbInside s) (w : Word) : TxbInside (pushTxb w s) :=
  writeTxb_inside h s.wp w

theorem pushTxb_wf {s : State} (h : Memory.wf s.txb = true) (w : Word) : Memory.wf (pushTxb w s).txb = true :=
  writeTxb_wf h s.wp w

end Sys2Proof.Machine
end

