-- ==== Sys2Proof/Laws/Build.lean ====
section
/-! SUPPORT. BUILD in one lemma: what its loops push, and what that makes of TXB and of pixel memory. -/

namespace Sys2Proof.Machine

/-- `t` is `s` after the sequential fill pushed the words `l`, whatever it did to pixel memory meanwhile. -/
structure Emits (s : State) (l : List Word) (t : State) : Prop where
  stages : StagesOnly s t
  wp : t.wp = s.wp + l.length
  words : ∀ k < s.wordCount, readTxb k t = if s.wp ≤ k ∧ k < s.wp + l.length then l.getD (k - s.wp) 0#16 else readTxb k s
  wf : Memory.wf s.txb = true → Memory.wf t.txb = true
  inside : TxbInside s → TxbInside t

theorem Emits.refl (s : State) : Emits s [] s :=
  ⟨.refl s, rfl, fun k _ => by rw [if_neg (by simp)], id, id⟩

theorem Emits.trans {s t u : State} {l m : List Word} (h : Emits s l t) (h' : Emits t m u) : Emits s (l ++ m) u where
  stages := h.stages.trans h'.stages
  wp := by rw [h'.wp, h.wp, List.length_append]; omega
  words := by
    intro k hk
    rw [h'.words k (by rw [h.stages.wordCount]; exact hk), h.words k hk, h.wp, List.length_append]
    by_cases h1 : k < s.wp + l.length
    · rw [if_neg (by omega)]
      by_cases h2 : s.wp ≤ k
      · rw [if_pos ⟨h2, h1⟩, if_pos ⟨h2, by omega⟩, List.getD_append _ _ _ _ (by omega)]
      · rw [if_neg (by omega), if_neg (by omega)]
    · by_cases h2 : k < s.wp + l.length + m.length
      · rw [if_pos ⟨by omega, h2⟩, if_pos ⟨by omega, by omega⟩, List.getD_append_right _ _ _ _ (by omega)]
        congr 1
        omega
      · rw [if_neg (by omega), if_neg (by omega), if_neg (by omega)]
  wf := fun hw => h'.wf (h.wf hw)
  inside := fun hi => h'.inside (h.inside hi)

theorem emits_push (w : Word) (s : State) : Emits s [w] (pushTxb w s) where
  stages := pushTxb_stages w s
  wp := rfl
  words := by
    intro k hk
    rw [readTxb_pushTxb]
    by_cases h : k = s.wp
    · subst h
      simp [hk]
    · rw [if_neg (by omega), if_neg (by simp; omega)]
  wf := fun h => pushTxb_wf h w
  inside := fun h => pushTxb_inside h w

/-- A change of pixel memory and the latches only pushes nothing. -/
theorem emits_quiet {s t : State} (h : StagesOnly s t) (hw : t.wp = s.wp) (hx : t.txb = s.txb) : Emits s [] t where
  stages := h
  wp := hw
  words := by
    intro k _
    rw [if_neg (by simp)]
    simp only [readTxb, hx]
  wf := by rw [hx]; exact id
  inside := by
    unfold TxbInside
    rw [hx, h.wordCount]
    exact id

/-! ### A byte, a pixel -/

/-- The two words of a channel byte (R65). -/
def byteWords (v : Byte) : List Word := [table (hiNibble v), table (loNibble v)]

theorem emits_emitByte (v : Byte) (s : State) : Emits s (byteWords v) (emitByte v s) := by
  have h0 : Emits s [] (encStage v s) := emits_quiet rfl rfl rfl
  exact (h0.trans (emits_push _ _)).trans (emits_push _ _)

@[simp] theorem emitByte_pix (v : Byte) (s : State) : (emitByte v s).pix = s.pix := by simp [emitByte]
@[simp] theorem emitByte_muxOut (v : Byte) (s : State) : (emitByte v s).muxOut = s.muxOut := by simp [emitByte]

/-- The six words of an ordered channel triple (R60, R67). -/
def tripleWords (t : Triple) : List Word := byteWords t.c0 ++ byteWords t.c1 ++ byteWords t.c2

/-- The six words of pixel `i` (R67). -/
def pixelWords (s : State) (i : Nat) : List Word := tripleWords (muxOrder s.model (adjusted s i))

theorem preStage_stages (i : Nat) (s : State) : StagesOnly s (preStage i s) := by
  unfold preStage StagesOnly
  split_ifs <;> rfl

@[simp] theorem preStage_work (i : Nat) (s : State) : (preStage i s).work = adjusted s i := rfl
@[simp] theorem preStage_wp (i : Nat) (s : State) : (preStage i s).wp = s.wp := by
  unfold preStage; split_ifs <;> rfl
@[simp] theorem preStage_txb (i : Nat) (s : State) : (preStage i s).txb = s.txb := by
  unfold preStage; split_ifs <;> rfl

/-- With both stages off PRE is the identity on a pixel and writes nothing (R91, R93, R95). -/
theorem adjusted_off {s : State} (h : PreOff s) (i : Nat) : adjusted s i = readPixel s.pixref i s := by
  simp [adjusted, adjust, adjustBy, corrStage, brightStage, h.1, h.2]

theorem preStage_off {s : State} (h : PreOff s) (i : Nat) : (preStage i s).pix = s.pix := by
  simp [preStage, preActive, h.1, h.2]

theorem not_active {s : State} (h : preActive s = false) : PreOff s := by
  simpa [preActive, PreOff] using h

/-- PRE on pixel `i`, read by channel (R95). -/
theorem readChan_preStage {i j : Nat} (hi : i < 65536) (hj : j < 65536) (h : Handle) (d : Chan) (s : State) :
    readChan h j d (preStage i s) = if h = s.pixref ∧ j = i then chanOf (adjusted s i) d else readChan h j d s := by
  cases ha : preActive s
  · have hoff := not_active ha
    rw [readChan_congr (preStage_off hoff i) (preStage_stages i s).bufs, adjusted_off hoff]
    split_ifs with e
    · obtain ⟨rfl, rfl⟩ := e
      cases d <;> rfl
    · rfl
  · have : (preStage i s).pix = (writePixel s.pixref i (adjusted s i) s).pix := by
      simp [preStage, ha, adjusted]
    rw [readChan_congr this (preStage_stages i s).bufs, readChan_writePixel hi hj]

theorem preStage_pixWf {s : State} (h : Memory.wf s.pix = true) (i : Nat) : Memory.wf (preStage i s).pix = true := by
  unfold preStage
  split_ifs
  · exact writePixel_wf h _ _ _
  · exact h

theorem adjusted_pi (s : State) (n i : Nat) : adjusted { s with pi := n } i = adjusted s i := rfl

/-- A turn of the pixel loop: six words of the adjusted pixel, and pixel memory as PRE leaves it. -/
theorem pixelTurn_pix (s : State) (i : Nat) : (pixelTurn s i).pix = (preStage i s).pix := by
  simp [pixelTurn, preStage, preActive]
  split_ifs <;> rfl

@[simp] theorem preStage_model (i : Nat) (s : State) : (preStage i s).model = s.model := (preStage_stages i s).model

/-- The state of a turn before its words are pushed: PRE and MUX done. -/
def turnReady (s : State) (i : Nat) : State := muxStage (adjusted s i) (preStage i { s with pi := i })

theorem emits_triple (t : Triple) (s : State) :
    Emits s (tripleWords t) (emitByte t.c2 (emitByte t.c1 (emitByte t.c0 s))) :=
  ((emits_emitByte t.c0 s).trans (emits_emitByte t.c1 _)).trans (emits_emitByte t.c2 _)

theorem turnReady_quiet (s : State) (i : Nat) : Emits s [] (turnReady s i) := by
  refine emits_quiet ?_ (preStage_wp i { s with pi := i }) (preStage_txb i { s with pi := i })
  have h1 : StagesOnly s { s with pi := i } := rfl
  have h2 : StagesOnly (preStage i { s with pi := i }) (turnReady s i) := rfl
  exact (h1.trans (preStage_stages _ _)).trans h2

theorem pixelTurn_eq (s : State) (i : Nat) :
    pixelTurn s i =
      let t := muxOrder s.model (adjusted s i)
      emitByte t.c2 (emitByte t.c1 (emitByte t.c0 (turnReady s i))) := by
  simp only [pixelTurn, muxStage_muxOut, preStage_work, preStage_model, adjusted_pi, turnReady]

theorem emits_pixelTurn (s : State) (i : Nat) : Emits s (pixelWords s i) (pixelTurn s i) := by
  rw [pixelTurn_eq]
  exact (turnReady_quiet s i).trans (emits_triple _ _)

/-! ### The loops -/

/-- The pixel loop's first `n` turns: the words of pixels 0 to `n - 1`, each pixel adjusted once, no other changed. -/
theorem pixelTurns (s : State) (n : Nat) (hn : n ≤ 65536) :
    Emits s ((List.range n).flatMap (pixelWords s)) ((List.range n).foldl pixelTurn s) ∧
    (∀ (h : Handle) (j : Nat) (d : Chan), j < 65536 →
      readChan h j d ((List.range n).foldl pixelTurn s) =
        if h = s.pixref ∧ j < n then chanOf (adjusted s j) d else readChan h j d s) ∧
    (Memory.wf s.pix = true → Memory.wf ((List.range n).foldl pixelTurn s).pix = true) ∧
    (PreOff s → ((List.range n).foldl pixelTurn s).pix = s.pix) := by
  induction n with
  | zero => exact ⟨.refl s, fun h j d _ => by rw [if_neg (by omega)]; rfl, id, fun _ => rfl⟩
  | succ n ih =>
    obtain ⟨he, hr, hw, ho⟩ := ih (by omega)
    rw [List.range_succ, List.flatMap_append, List.foldl_append]
    generalize ht : (List.range n).foldl pixelTurn s = t at he hr hw ho
    have hst := he.stages
    have hsame : readPixel s.pixref n t = readPixel s.pixref n s := by
      simp only [readPixel, hr _ n _ (by omega)]
      simp
    have hadj : adjusted t n = adjusted s n := adjusted_congr hst hsame
    refine ⟨?_, ?_, ?_, ?_⟩
    · have hpw : pixelWords t n = pixelWords s n := by simp only [pixelWords, hadj, hst.model]
      simpa [hpw] using he.trans (emits_pixelTurn t n)
    · intro h j d hj
      have := readChan_preStage (i := n) (by omega) hj h d t
      rw [List.foldl_cons, List.foldl_nil,
        readChan_congr (pixelTurn_pix t n) ((emits_pixelTurn t n).stages.bufs.trans (preStage_stages n t).bufs.symm),
        this, hst.pixref, hr h j d hj, hadj]
      by_cases e : h = s.pixref
      · subst e
        by_cases e2 : j = n
        · subst e2
          simp
        · simp only [true_and, e2, if_false]
          split_ifs <;> first | rfl | omega
      · simp [e]
    · intro h
      rw [List.foldl_cons, List.foldl_nil, pixelTurn_pix]
      exact preStage_pixWf (hw h) n
    · intro h
      have hot : PreOff t := ⟨hst.brightness.trans h.1, hst.correction.trans h.2⟩
      rw [List.foldl_cons, List.foldl_nil, pixelTurn_pix, preStage_off hot, ho h]

theorem emits_gap (n : Nat) (s : State) :
    Emits s (List.replicate n 0#16) ((List.range n).foldl (fun s _ => pushTxb 0#16 s) s) ∧
      ((List.range n).foldl (fun s _ => pushTxb 0#16 s) s).pix = s.pix := by
  induction n with
  | zero => exact ⟨.refl s, rfl⟩
  | succ n ih =>
    rw [List.range_succ, List.foldl_append, List.replicate_succ', List.foldl_cons, List.foldl_nil, pushTxb_pix]
    exact ⟨ih.1.trans (emits_push _ _), ih.2⟩

/-- The clear writes zero to every word and touches nothing else. -/
theorem clearTxb_spec (s : State) :
    StagesOnly s (clearTxb s) ∧ (clearTxb s).pix = s.pix ∧ (∀ k < s.wordCount, readTxb k (clearTxb s) = 0#16) ∧
      (Memory.wf s.txb = true → Memory.wf (clearTxb s).txb = true) ∧ (TxbInside s → TxbInside (clearTxb s)) := by
  unfold clearTxb
  suffices H : ∀ n, let t := (List.range n).foldl (fun s k => writeTxb k 0#16 s) s
      StagesOnly s t ∧ t.pix = s.pix ∧ (∀ k < s.wordCount, k < n → readTxb k t = 0#16) ∧
      (Memory.wf s.txb = true → Memory.wf t.txb = true) ∧ (TxbInside s → TxbInside t) by
    obtain ⟨h1, h2, h3, h4, h5⟩ := H s.wordCount
    exact ⟨h1, h2, fun k hk => h3 k hk hk, h4, h5⟩
  intro n
  induction n with
  | zero => exact ⟨.refl s, rfl, fun k _ h => absurd h (by omega), id, id⟩
  | succ n ih =>
    rw [List.range_succ, List.foldl_append]
    generalize (List.range n).foldl (fun s k => writeTxb k 0#16 s) s = t at ih
    obtain ⟨h1, h2, h3, h4, h5⟩ := ih
    refine ⟨h1.trans (writeTxb_stages _ _ _), (writeTxb_pix _ _ _).trans h2, ?_, fun h => writeTxb_wf (h4 h) _ _,
      fun h => writeTxb_inside (h5 h) _ _⟩
    intro k hk hkn
    show readTxb k (writeTxb n 0#16 t) = _
    rw [readTxb_writeTxb]
    split_ifs with e
    · rfl
    · refine h3 k hk ?_
      by_contra hc
      exact e ⟨by omega, by rw [h1.wordCount]; omega⟩

/-! ### BUILD -/

/-- The words of a frame (R66): the guard, six words a pixel, the gap. -/
def frameWords (s : State) : List Word :=
  [0#16] ++ (List.range s.leds.toNat).flatMap (pixelWords s) ++ List.replicate s.resetGap 0#16

@[simp] theorem byteWords_length (v : Byte) : (byteWords v).length = 2 := rfl
@[simp] theorem tripleWords_length (t : Triple) : (tripleWords t).length = 6 := rfl
@[simp] theorem pixelWords_length (s : State) (i : Nat) : (pixelWords s i).length = 6 := rfl

theorem flatMap_length (n : Nat) (f : Nat → List Word) (h : ∀ i, (f i).length = 6) :
    ((List.range n).flatMap f).length = 6 * n := by
  induction n with
  | zero => rfl
  | succ n ih => rw [List.range_succ, List.flatMap_append, List.length_append, ih]; simp [h]; omega

theorem flatMap_getD {n i r : Nat} (f : Nat → List Word) (h : ∀ i, (f i).length = 6) (hi : i < n) (hr : r < 6)
    (d : Word) : ((List.range n).flatMap f).getD (6 * i + r) d = (f i).getD r d := by
  induction n with
  | zero => omega
  | succ n ih =>
    rw [List.range_succ, List.flatMap_append]
    by_cases e : i = n
    · subst e
      rw [List.getD_append_right _ _ _ _ (by rw [flatMap_length _ _ h]; omega), flatMap_length _ _ h]
      simp
    · rw [List.getD_append _ _ _ _ (by rw [flatMap_length _ _ h]; omega)]
      exact ih (by omega)

@[simp] theorem frameWords_length (s : State) : (frameWords s).length = wordCountOf s.leds s.resetGap := by
  simp only [frameWords, List.length_append, flatMap_length _ _ (pixelWords_length s), List.length_replicate,
    wordCountOf, List.length_cons, List.length_nil]

/-- BUILD up to its size check: the frame's words in order, each word once; every pixel of the session adjusted once;
`WP` is the number of words; nothing else but the latches, `PI` and `PHASE` changes. -/
theorem buildFrame_spec (s : State) :
    let t := buildFrame s
    StagesOnly { s with phase := .building } t ∧ t.wp = wordCountOf s.leds s.resetGap ∧
    (∀ k < s.wordCount, readTxb k t = (frameWords s).getD k 0#16) ∧
    (∀ (h : Handle) (j : Nat) (d : Chan), j < 65536 →
      readChan h j d t = if h = s.pixref ∧ j < s.leds.toNat then chanOf (adjusted s j) d else readChan h j d s) ∧
    (Memory.wf s.pix = true → Memory.wf t.pix = true) ∧ (Memory.wf s.txb = true → Memory.wf t.txb = true) ∧
    (TxbInside s → TxbInside t) ∧ (PreOff s → t.pix = s.pix) := by
  obtain ⟨c1, c2, c3, c4, c5⟩ := clearTxb_spec { s with phase := .building }
  generalize hc : clearTxb { s with phase := .building } = c at c1 c2 c3 c4 c5
  have hg : Emits { c with wp := 0 } [0#16] (pushTxb 0#16 { c with wp := 0 }) := emits_push _ _
  have hcs : StagesOnly { s with phase := .building } { c with wp := 0 } := by
    have : StagesOnly c { c with wp := 0 } := rfl
    exact c1.trans this
  generalize hge : pushTxb 0#16 { c with wp := 0 } = g at hg
  have hgp : g.pix = s.pix := by rw [← hge, pushTxb_pix]; exact c2
  have hgs := hcs.trans hg.stages
  have hleds : g.leds = s.leds := hgs.leds
  obtain ⟨p1, p2, p3, p4⟩ := pixelTurns g g.leds.toNat (by omega)
  generalize hp : (List.range g.leds.toNat).foldl pixelTurn g = p at p1 p2 p3 p4
  have hps := hgs.trans p1.stages
  obtain ⟨q1, q2⟩ := emits_gap p.resetGap p
  have hb : buildFrame s = (List.range p.resetGap).foldl (fun s _ => pushTxb 0#16 s) p := by
    show gapLoop (pixelLoop (pushTxb 0#16 { clearTxb { s with phase := .building } with wp := 0 })) = _
    rw [hc, hge]
    unfold pixelLoop
    rw [hp]
    rfl
  have hadj : ∀ j, adjusted g j = adjusted s j := by
    intro j
    simp only [adjusted, hgs.brightness, hgs.correction, hgs.pixref, readPixel_congr hgp hgs.bufs]
  have hpw : pixelWords g = pixelWords s := by
    funext i
    simp only [pixelWords, hadj, hgs.model]
  have hall := (hg.trans p1).trans q1
  have hlist : [0#16] ++ (List.range g.leds.toNat).flatMap (pixelWords g) ++ List.replicate p.resetGap 0#16
      = frameWords s := by
    rw [hleds, hpw, hps.resetGap]
    rfl
  rw [hlist] at hall
  rw [hb]
  refine ⟨hcs.trans hall.stages, ?_, ?_, ?_, ?_, ?_, ?_, ?_⟩
  · rw [hall.wp, frameWords_length]
    simp
  · intro k hk
    have hk' : k < ({ c with wp := 0 } : State).wordCount := by
      show k < c.wordCount
      rw [c1.wordCount]
      exact hk
    rw [hall.words k hk', frameWords_length]
    split_ifs with e
    · simp
    · have hz : readTxb k { c with wp := 0 } = readTxb k c := rfl
      rw [hz, c3 k hk, List.getD_eq_default]
      rw [frameWords_length]
      simpa using e
  · intro h j d hj
    rw [readChan_congr q2 q1.stages.bufs, p2 h j d hj, hgs.pixref, hleds, hadj, readChan_congr hgp hgs.bufs]
  · intro h
    rw [q2]
    exact p3 (by rw [hgp]; exact h)
  · intro h
    exact hall.wf (c4 h)
  · intro h
    exact hall.inside (c5 h)
  · intro h
    rw [q2, p4 ⟨hgs.brightness.trans h.1, hgs.correction.trans h.2⟩, hgp]

/-- A built TXB of the right size is the frame (R66). -/
theorem buildFrame_frameOf {s : State} (h : Sized s) : FrameOf s (buildFrame s) := by
  obtain ⟨-, -, hw, -⟩ := buildFrame_spec s
  have hlen : s.wordCount = 1 + 6 * s.leds.toNat + s.resetGap := h
  have hpix : ∀ i < s.leds.toNat, ∀ r < 6,
      readTxb (1 + 6 * i + r) (buildFrame s) = (pixelWords s i).getD r 0#16 := by
    intro i hi r hr
    rw [hw _ (by omega), frameWords, List.getD_append _ _ _ _ (by
      rw [List.length_append, flatMap_length _ _ (pixelWords_length s)]; simp; omega),
      List.getD_append_right _ _ _ _ (by simp; omega),
      ← flatMap_getD (pixelWords s) (pixelWords_length s) hi hr]
    congr 1
    simp
    omega
  refine ⟨?_, ?_, ?_, ?_⟩
  · rw [hw 0 (by omega)]
    rfl
  · intro i hi p hp
    rw [hpix i hi (2 * p) (by omega)]
    obtain rfl | rfl | rfl : p = 0 ∨ p = 1 ∨ p = 2 := by omega
    all_goals rfl
  · intro i hi p hp
    rw [Nat.add_assoc, hpix i hi (2 * p + 1) (by omega)]
    obtain rfl | rfl | rfl : p = 0 ∨ p = 1 ∨ p = 2 := by omega
    all_goals rfl
  · intro j hj
    rw [hw _ (by omega), frameWords, List.getD_append_right _ _ _ _ (by
      rw [List.length_append, flatMap_length _ _ (pixelWords_length s)]; simp)]
    simp

/-- BUILD adjusts every pixel of the session once and no other (R95, R113). -/
theorem buildFrame_pixels (s : State) : PixelsAdjusted s (buildFrame s) := by
  obtain ⟨-, -, -, hr, -⟩ := buildFrame_spec s
  refine ⟨?_, ?_⟩
  · intro i hi
    have : i < 65536 := by omega
    simp only [readPixel, hr _ _ _ this, hi, and_self, if_true]
    rfl
  · intro h i c hn
    rw [hr h i.toNat c (by omega), if_neg]
    rintro ⟨rfl, hi⟩
    exact hn ⟨rfl, by omega, hi⟩

end Sys2Proof.Machine
end

