-- ==== Sys2Proof/Laws/Decode.lean ====
section
/-! SUPPORT. Laws of the encoding: what each row of R70's match and mask table says of a word's fields, and how a word
falls into opcode and operands. -/

namespace Sys2Proof

theorem bits_ext {n : Nat} (x y : BitVec n) : x = y ↔ ∀ i < n, x.getLsbD i = y.getLsbD i :=
  ⟨fun h => by simp [h], fun h => BitVec.eq_of_getLsbD_eq h⟩

theorem commandWord_bit (o : Byte) (x : BitVec 56) (i : Nat) :
    (commandWord o x).getLsbD i = if i < 56 then x.getLsbD i else o.getLsbD (i - 56) := by
  unfold commandWord
  exact BitVec.getLsbD_append

/-- A field inside the operands does not see the opcode. -/
theorem commandWord_low (o : Byte) (x : BitVec 56) (a n : Nat) (h : a + n ≤ 56) :
    (commandWord o x).extractLsb' a n = x.extractLsb' a n := by
  apply BitVec.eq_of_getLsbD_eq
  intro i hi
  simp only [BitVec.getLsbD_extractLsb', hi, decide_true, Bool.true_and, commandWord_bit]
  rw [if_pos (by omega)]

/-- `OPC = CMD[63:56]` (R69). -/
theorem commandWord_opc (o : Byte) (x : BitVec 56) : (commandWord o x).extractLsb' 56 8 = o := by
  apply BitVec.eq_of_getLsbD_eq
  intro i hi
  simp only [BitVec.getLsbD_extractLsb', hi, decide_true, Bool.true_and, commandWord_bit]
  rw [if_neg (by omega)]
  congr 1
  omega

/-- A word is its opcode over its operands. -/
theorem commandWord_eta (w : Command) : commandWord (w.extractLsb' 56 8) (w.extractLsb' 0 56) = w := by
  apply BitVec.eq_of_getLsbD_eq
  intro i hi
  simp only [BitVec.getLsbD_extractLsb', commandWord_bit]
  split_ifs with h
  · simp [h]
  · have : i - 56 < 8 := by omega
    simp only [this, decide_true, Bool.true_and]
    congr 1
    omega

/-- Matching a row, bit by bit. -/
theorem hits_iff (row : OpRow) (w : Command) :
    row.hits w = true ↔ ∀ i < 64, (w.getLsbD i && row.mask.getLsbD i) = row.pattern.getLsbD i := by
  unfold OpRow.hits
  rw [beq_iff_eq, bits_ext]
  simp only [BitVec.getLsbD_and]

/-- INIT: opcode 1 and `MODEL[7:1]` zero (R70, R74). -/
theorem hits_init (w : Command) :
    rowInit.hits w = true ↔ w.extractLsb' 56 8 = 1#8 ∧ w.extractLsb' 41 7 = 0#7 := by
  rw [hits_iff, bits_ext, bits_ext]
  simp only [BitVec.getLsbD_extractLsb', rowInit]
  constructor
  · intro h
    exact ⟨fun i hi => by have := h (56 + i) (by omega); interval_cases i <;> simpa using this,
      fun i hi => by have := h (41 + i) (by omega); interval_cases i <;> simpa using this⟩
  · rintro ⟨h1, h2⟩ i hi
    by_cases a : 56 ≤ i
    · have := h1 (i - 56) (by omega)
      interval_cases i <;> simpa using this
    · by_cases b : 41 ≤ i ∧ i < 48
      · have := h2 (i - 41) (by omega)
        obtain ⟨b1, b2⟩ := b
        clear a hi
        interval_cases i <;> simpa using this
      · interval_cases i <;> first | rfl | omega | simp

/-- FILL: opcode 2 (R70). -/
theorem hits_fill (w : Command) : rowFill.hits w = true ↔ w.extractLsb' 56 8 = 2#8 := by
  rw [hits_iff, bits_ext]
  simp only [BitVec.getLsbD_extractLsb', rowFill]
  constructor
  · intro h i hi
    have := h (56 + i) (by omega)
    interval_cases i <;> simpa using this
  · intro h1 i hi
    by_cases a : 56 ≤ i
    · have := h1 (i - 56) (by omega)
      interval_cases i <;> simpa using this
    · interval_cases i <;> first | rfl | omega | simp

/-- FILL_ALL: opcode 3 and `[31:0]` zero (R70). -/
theorem hits_fillAll (w : Command) :
    rowFillAll.hits w = true ↔ w.extractLsb' 56 8 = 3#8 ∧ w.extractLsb' 0 32 = 0#32 := by
  rw [hits_iff, bits_ext, bits_ext]
  simp only [BitVec.getLsbD_extractLsb', rowFillAll]
  constructor
  · intro h
    exact ⟨fun i hi => by have := h (56 + i) (by omega); interval_cases i <;> simpa using this,
      fun i hi => by have := h i (by omega); interval_cases i <;> simpa using this⟩
  · rintro ⟨h1, h2⟩ i hi
    by_cases a : 56 ≤ i
    · have := h1 (i - 56) (by omega)
      interval_cases i <;> simpa using this
    · by_cases b : i < 32
      · have := h2 i b
        clear a hi
        interval_cases i <;> simpa using this
      · interval_cases i <;> first | rfl | omega | simp

/-- SET_BRIGHTNESS: opcode 4 and `[47:0]` zero (R70). -/
theorem hits_setBrightness (w : Command) :
    rowSetBrightness.hits w = true ↔ w.extractLsb' 56 8 = 4#8 ∧ w.extractLsb' 0 48 = 0#48 := by
  rw [hits_iff, bits_ext, bits_ext]
  simp only [BitVec.getLsbD_extractLsb', rowSetBrightness]
  constructor
  · intro h
    exact ⟨fun i hi => by have := h (56 + i) (by omega); interval_cases i <;> simpa using this,
      fun i hi => by have := h i (by omega); interval_cases i <;> simpa using this⟩
  · rintro ⟨h1, h2⟩ i hi
    by_cases a : 56 ≤ i
    · have := h1 (i - 56) (by omega)
      interval_cases i <;> simpa using this
    · by_cases b : i < 48
      · have := h2 i b
        clear a hi
        interval_cases i <;> simpa using this
      · interval_cases i <;> first | rfl | omega | simp

/-- SET_COLOR_CORRECTION: opcode 5, `[55:49]` and `[47:0]` zero (R70). -/
theorem hits_setColorCorrection (w : Command) :
    rowSetColorCorrection.hits w = true ↔
      w.extractLsb' 56 8 = 5#8 ∧ w.extractLsb' 49 7 = 0#7 ∧ w.extractLsb' 0 48 = 0#48 := by
  rw [hits_iff, bits_ext, bits_ext, bits_ext]
  simp only [BitVec.getLsbD_extractLsb', rowSetColorCorrection]
  constructor
  · intro h
    exact ⟨fun i hi => by have := h (56 + i) (by omega); interval_cases i <;> simpa using this,
      fun i hi => by have := h (49 + i) (by omega); interval_cases i <;> simpa using this,
      fun i hi => by have := h i (by omega); interval_cases i <;> simpa using this⟩
  · rintro ⟨h1, h2, h3⟩ i hi
    by_cases a : 56 ≤ i
    · have := h1 (i - 56) (by omega)
      interval_cases i <;> simpa using this
    · by_cases b : 49 ≤ i
      · have := h2 (i - 49) (by omega)
        clear hi
        interval_cases i <;> first | omega | simpa using this
      · by_cases c : i < 48
        · have := h3 i c
          clear a b hi
          interval_cases i <;> simpa using this
        · interval_cases i; simp

/-- UPDATE: opcode 6 and all operand bits zero (R70). -/
theorem hits_update (w : Command) :
    rowUpdate.hits w = true ↔ w.extractLsb' 56 8 = 6#8 ∧ w.extractLsb' 0 56 = 0#56 := by
  rw [hits_iff, bits_ext, bits_ext]
  simp only [BitVec.getLsbD_extractLsb', rowUpdate]
  constructor
  · intro h
    exact ⟨fun i hi => by have := h (56 + i) (by omega); interval_cases i <;> simpa using this,
      fun i hi => by have := h i (by omega); interval_cases i <;> simpa using this⟩
  · rintro ⟨h1, h2⟩ i hi
    by_cases a : 56 ≤ i
    · have := h1 (i - 56) (by omega)
      interval_cases i <;> simpa using this
    · have := h2 i (by omega)
      clear hi
      interval_cases i <;> first | omega | simpa using this

/-! ### The operand layouts, bit by bit -/

theorem initOperands_bit (p m : Byte) (l : Count) (r : Handle) (i : Nat) :
    (p ++ m ++ l ++ r : BitVec 56).getLsbD i =
      if i < 24 then r.getLsbD i else if i < 40 then l.getLsbD (i - 24) else if i < 48 then m.getLsbD (i - 40)
      else p.getLsbD (i - 48) := by
  have h1 : (p ++ m ++ l ++ r : BitVec 56).getLsbD i = _ := BitVec.getLsbD_append (x := p ++ m ++ l) (y := r)
  rw [h1, BitVec.getLsbD_append, BitVec.getLsbD_append]
  split_ifs <;> first | rfl | omega

theorem fillOperands_bit (c : BitVec 24) (l h : Count) (i : Nat) :
    (c ++ l ++ h : BitVec 56).getLsbD i =
      if i < 16 then h.getLsbD i else if i < 32 then l.getLsbD (i - 16) else c.getLsbD (i - 32) := by
  have h1 : (c ++ l ++ h : BitVec 56).getLsbD i = _ := BitVec.getLsbD_append (x := c ++ l) (y := h)
  rw [h1, BitVec.getLsbD_append]
  split_ifs <;> first | rfl | omega

theorem colorBits_bit (p : Pixel) (i : Nat) :
    (colorBits p).getLsbD i =
      if i < 8 then p.b.getLsbD i else if i < 16 then p.g.getLsbD (i - 8) else p.r.getLsbD (i - 16) := by
  have h1 : (colorBits p).getLsbD i = _ := BitVec.getLsbD_append (x := p.r ++ p.g) (y := p.b)
  rw [h1, BitVec.getLsbD_append]
  split_ifs <;> first | rfl | omega

theorem fillAllOperands_bit (c : BitVec 24) (i : Nat) :
    (c ++ 0#32 : BitVec 56).getLsbD i = if i < 32 then false else c.getLsbD (i - 32) := by
  have h1 : (c ++ 0#32 : BitVec 56).getLsbD i = _ := BitVec.getLsbD_append (x := c) (y := 0#32)
  rw [h1]
  simp

theorem levelOperands_bit (v : Byte) (i : Nat) :
    (v ++ 0#48 : BitVec 56).getLsbD i = if i < 48 then false else v.getLsbD (i - 48) := by
  have h1 : (v ++ 0#48 : BitVec 56).getLsbD i = _ := BitVec.getLsbD_append (x := v) (y := 0#48)
  rw [h1]
  simp

theorem enOperands_bit (e : Bool) (i : Nat) :
    (0#7 ++ BitVec.ofBool e ++ 0#48 : BitVec 56).getLsbD i = (decide (i = 48) && e) := by
  cases e
  · have : (0#7 ++ BitVec.ofBool false ++ 0#48 : BitVec 56) = 0#56 := by decide
    rw [this]
    simp
  · have : (0#7 ++ BitVec.ofBool true ++ 0#48 : BitVec 56) = 1#56 <<< 48 := by decide
    rw [this]
    by_cases h : i < 56
    · interval_cases i <;> decide
    · rw [BitVec.getLsbD_of_ge _ _ (by omega)]
      simp
      omega

end Sys2Proof
end

