-- ==== Sys2Proof/Laws/Operands.lean ====
section
/-! SUPPORT. Small laws of the datapath's functions: their values as numbers, what holds of SCALE and of the correction
curves whatever their open parts are, and that each open part can give the spec's default. -/

namespace Sys2Proof.Machine

/-- Where SCALE has a free choice, 255 divides the product and the quotient is at least 1 (law L3). -/
theorem scaleFree_dvd {c b : Byte} (h : scaleFree c b = true) :
    255 ∣ c.toNat * b.toNat ∧ 255 ≤ c.toNat * b.toNat := by
  simp only [scaleFree, Bool.and_eq_true, beq_iff_eq, bne_iff_ne] at h
  omega

/-- At full brightness SCALE has no free choice (law L5). -/
@[simp] theorem scaleFree_full (c : Byte) : scaleFree c 255#8 = false := by simp [scaleFree]

/-- SCALE as a number, whatever its free choices: the exact quotient, less one where it may be and the choice says so. -/
theorem scaleBy_toNat (low : Byte → Byte → Bool) (c b : Byte) :
    (scaleBy low c b).toNat = c.toNat * b.toNat / 255 - if scaleFree c b && low c b then 1 else 0 := by
  have : c.toNat * b.toNat ≤ 255 * 255 := Nat.mul_le_mul (by omega) (by omega)
  simp only [scaleBy, BitVec.toNat_ofNat]
  apply Nat.mod_eq_of_lt
  omega

/-- A curve never exceeds its argument, whatever its points (law C2). -/
theorem curveMax_le (p : Byte → Byte) (n : Nat) : curveMax p n ≤ n := by
  induction n with
  | zero => exact Nat.le_refl 0
  | succ n ih =>
    simp only [curveMax]
    omega

/-- A curve is non-decreasing, whatever its points (law C3). -/
theorem curveMax_mono (p : Byte → Byte) {m n : Nat} (h : m ≤ n) : curveMax p m ≤ curveMax p n := by
  induction n, h using Nat.le_induction with
  | base => exact Nat.le_refl _
  | succ n _ ih => exact Nat.le_trans ih (Nat.le_max_left _ _)

theorem curveBy_toNat (p : Byte → Byte) (v : Byte) : (curveBy p v).toNat = curveMax p v.toNat := by
  have := curveMax_le p v.toNat
  simp only [curveBy, BitVec.toNat_ofNat]
  omega

/-- A curve through the points of a lawful function is that function, as far as the laws hold. -/
theorem curveMax_of_lawful {p : Byte → Byte} {f : Nat → Nat} {n : Nat}
    (hp : ∀ k ≤ n, (p (BitVec.ofNat 8 k)).toNat = f k) (hle : ∀ k ≤ n, f k ≤ k)
    (hmono : ∀ k < n, f k ≤ f (k + 1)) : curveMax p n = f n := by
  induction n with
  | zero =>
    have := hle 0 (Nat.le_refl 0)
    simp only [curveMax]
    omega
  | succ n ih =>
    have h1 := ih (fun k hk => hp k (by omega)) (fun k hk => hle k (by omega)) (fun k hk => hmono k (by omega))
    have h2 := hle (n + 1) (Nat.le_refl _)
    have h3 := hmono n (by omega)
    simp only [curveMax, h1, hp (n + 1) (Nat.le_refl _)]
    omega

/-- A curve that scales by `c/255` and truncates is the curve through its own points. -/
theorem curveBy_scaled {c : Nat} (hc : c ≤ 255) (p : Byte → Byte) (hp : ∀ v, p v = BitVec.ofNat 8 (v.toNat * c / 255)) :
    curveBy p = p := by
  have hle : ∀ k, k * c / 255 ≤ k := fun k =>
    Nat.div_le_of_le_mul (by rw [Nat.mul_comm 255]; exact Nat.mul_le_mul_left k hc)
  have hval : ∀ k < 256, (p (BitVec.ofNat 8 k)).toNat = k * c / 255 := by
    intro k hk
    have := hle k
    rw [hp, BitVec.toNat_ofNat, BitVec.toNat_ofNat, Nat.mod_eq_of_lt hk, Nat.mod_eq_of_lt (by omega)]
  funext v
  apply BitVec.eq_of_toNat_eq
  rw [curveBy_toNat, curveMax_of_lawful (f := fun k => k * c / 255) (fun k hk => hval k (by omega)) (fun k _ => hle k)
    (fun k _ => Nat.div_le_div_right (Nat.mul_le_mul_right c (by omega)))]
  simpa using (hval v.toNat (by omega)).symm

/-- The spec's defaults are curves through their own points (R93). -/
theorem curveBy_default : curveBy corrGDefault = corrGDefault ∧ curveBy corrBDefault = corrBDefault :=
  ⟨curveBy_scaled (c := 176) (by decide) _ fun _ => rfl, curveBy_scaled (c := 240) (by decide) _ fun _ => rfl⟩

/-- Without a free choice taken SCALE is the spec's default (R92). -/
theorem scaleBy_default : scaleBy (fun _ _ => false) = scaleDefault := by
  funext c b
  simp [scaleBy, scaleDefault]

theorem wordBits_length (w : Word) : (wordBits w).length = 16 := by simp [wordBits]

theorem wordBits_get (w : Word) {j : Nat} (h : j < 16) : (wordBits w)[j]? = some (w.getLsbD j) := by
  simp [wordBits, h]

end Sys2Proof.Machine
end

