-- ==== Sys2Proof/Laws/Exec.lean ====
section
/-! SUPPORT. Admission, said once; what UPDATE and BUILD amount to; the line; what one move of the transport can do. -/

namespace Sys2Proof.Machine

theorem legalStop_open {s : State} (h : Open s) : legalStop s = none := by
  simp [legalStop, h.1, h.2]

theorem sessionStop_ready {s : State} (h : Ready s) : sessionStop s = none := by
  simp [sessionStop, legalStop_open h.1, h.2]

theorem stageStop_ready {s : State} (h : StageReady s) : stageStop s = none := by
  obtain ⟨a, b, c⟩ := h
  simp [stageStop, a, b, c]

/-- An admission check that lets FILL, FILL_ALL or UPDATE through says what it checked. -/
theorem ready_of_sessionStop {s : State} (h : sessionStop s = none) : Ready s := by
  unfold sessionStop legalStop at h
  split_ifs at h; simp_all [Ready, Open]

/-- BUILD's size check passes exactly when the session registers meet the size invariant (R116). -/
theorem sizeOk_iff (s : State) : sizeOk (buildFrame s) = true ↔ Sized s := by
  obtain ⟨h1, h2, -⟩ := buildFrame_spec s
  have : (buildFrame s).wordCount = s.wordCount := h1.wordCount
  simp only [sizeOk, beq_iff_eq, this, h2, Sized]
  exact eq_comm

/-! ### The line -/

theorem frameBits_length (s : State) : (frameBits s).length = 16 * s.wordCount := by
  unfold frameBits
  generalize s.wordCount = n
  induction n with
  | zero => rfl
  | succ n ih => rw [List.range_succ, List.flatMap_append, List.length_append, ih]; simp [wordBits_length]; omega

/-- The frame's bits depend on TXB and `WORD_COUNT` only. -/
theorem frameBits_congr {s t : State} (hw : t.wordCount = s.wordCount) (hx : t.txb = s.txb) :
    frameBits t = frameBits s := by
  simp only [frameBits, hw, readTxb, hx]

/-- Bits already sent and bits sent now are the bits sent. -/
theorem take_then_take {α : Type} (l : List α) (a b : Nat) : l.take a ++ (l.drop a).take b = l.take (a + b) := by
  rw [List.take_add]

/-- One move of the transport (R124): which fields it may change, and what it adds to the line. -/
theorem transportMove_spec (s : State) :
    let t := transportMove s
    t = { s with
      line := t.line, sent := t.sent, plat := t.plat, result := t.result, phase := t.phase, inFlight := t.inFlight } ∧
    ∃ bits, bits <+: (frameBits s).drop s.sent ∧ t.line = s.line ++ bits := by
  simp only [transportMove]
  have hf : frameBits (takeTx s) = frameBits s := frameBits_congr rfl rfl
  have key : ∀ n, ∃ bits, bits <+: (frameBits s).drop s.sent ∧
      s.line ++ ((frameBits (takeTx s)).drop s.sent).take n = s.line ++ bits :=
    fun n => ⟨_, List.take_prefix _ _, by rw [hf]⟩
  split
  · exact ⟨rfl, key _⟩
  · exact ⟨rfl, key _⟩
  · exact ⟨rfl, key _⟩

end Sys2Proof.Machine
end

