-- ==== Sys2Proof/Laws/PerInstr.lean ====
section
/-! SUPPORT. Statements about every operation as syntax, one lemma per constructor. -/

/-- An operation has a word of its own exactly when it is no stage of UPDATE (R71). -/
def Sys2Proof.Laws.StageHasNoWord.Statement (i : Sys2Proof.Instr) : Prop :=
  (Sys2Proof.encode i).isSome = !Sys2Proof.Machine.internalStage i

namespace Sys2Proof.Laws.StageHasNoWord

theorem init (pin : Byte) (m : Model) (leds : Count) (ref : Handle) : Statement (.init pin m leds ref) := rfl
theorem fill (p : Pixel) (lo hi : Count) : Statement (.fill p lo hi) := rfl
theorem fillAll (p : Pixel) : Statement (.fillAll p) := rfl
theorem setBrightness (level : Byte) : Statement (.setBrightness level) := rfl
theorem setColorCorrection (en : Bool) : Statement (.setColorCorrection en) := rfl
theorem update : Statement .update := rfl
theorem pre (k : Count) : Statement (.pre k) := rfl
theorem mux (p : Pixel) : Statement (.mux p) := rfl
theorem enc (v : Byte) : Statement (.enc v) := rfl
theorem build : Statement .build := rfl
theorem tx : Statement .tx := rfl
theorem lut0 : Statement .lut0 := rfl
theorem lut1 : Statement .lut1 := rfl
theorem lut2 : Statement .lut2 := rfl
theorem lut3 : Statement .lut3 := rfl
theorem lut4 : Statement .lut4 := rfl
theorem lut5 : Statement .lut5 := rfl
theorem lut6 : Statement .lut6 := rfl
theorem lut7 : Statement .lut7 := rfl
theorem lut8 : Statement .lut8 := rfl
theorem lut9 : Statement .lut9 := rfl
theorem lutA : Statement .lutA := rfl
theorem lutB : Statement .lutB := rfl
theorem lutC : Statement .lutC := rfl
theorem lutD : Statement .lutD := rfl
theorem lutE : Statement .lutE := rfl
theorem lutF : Statement .lutF := rfl
theorem illegalCmd (w : Command) : Statement (.illegalCmd w) := rfl

end Sys2Proof.Laws.StageHasNoWord
end

