-- ==== Sys2Proof/Laws/Step.lean ====
section
/-! SUPPORT. What one step can do, said once: step_next for the step, HostEffect for the host's moves, InitEffect for
INIT. Every law of all steps is a case analysis over these. -/

namespace Sys2Proof.Machine

/-- What an admitted INIT can leave (R131, R170): a session, or one of its three faults after the calls made so far. -/
inductive InitEffect (pin : Byte) (m : Model) (leds : Count) (ref : Handle) (s : State) : State → Prop where
  | bus (e : ErrCode) : busAnswer s = .fail e → InitEffect pin m leds ref s (raise (.busRegFail ref e) (callBus pin s))
  | dev (e : ErrCode) : devAnswer (callBus pin s) = .fail e →
      InitEffect pin m leds ref s (raise (.devRegFail ref e) (callDev (callBus pin s)))
  | alloc : allocAnswer (callDev (callBus pin s)) = .fail →
      InitEffect pin m leds ref s
        (raise (.allocFail ref) (callAlloc (2 * wordCountOf leds (gapOf m)) (callDev (callBus pin s))))
  | opened :
      InitEffect pin m leds ref s
        (openSession pin m leds ref (callAlloc (2 * wordCountOf leds (gapOf m)) (callDev (callBus pin s))))

theorem initSession_effect (pin : Byte) (m : Model) (leds : Count) (ref : Handle) (s : State) :
    InitEffect pin m leds ref s (initSession pin m leds ref s) := by
  simp only [initSession]
  split
  · exact .bus _ ‹_›
  · split
    · exact .dev _ ‹_›
    · split
      · exact .alloc ‹_›
      · exact .opened

/-- What an admission check that lets INIT through has checked (R137). -/
theorem initStop_none {leds : Count} {ref : Handle} {s : State} (h : initStop leds ref s = none) :
    Open s ∧ s.valid = false ∧ OwnsBuffer ref leds s := by
  unfold initStop legalStop at h
  have own : ∀ x : PixOwn, x ≠ .released → x = .caller := by intro x; cases x <;> simp
  split_ifs at h
  all_goals simp_all
  exact ⟨⟨by assumption, by assumption⟩, own _ (by assumption), by bv_omega⟩

theorem initStop_admits {leds : Count} {ref : Handle} {s : State} (h1 : Open s) (h2 : s.valid = false)
    (h3 : OwnsBuffer ref leds s) : initStop leds ref s = none := by
  have := h3.2
  simp only [initStop, legalStop_open h1, h2, h3.1]
  simp only [Bool.false_eq_true, if_false, reduceCtorEq, ite_eq_right_iff]
  intro hc
  bv_omega

theorem open_of_legalStop {s : State} (h : legalStop s = none) : Open s := by
  unfold legalStop at h
  split_ifs at h
  simp_all [Open]

/-- A guarded meaning answers next only where its check lets it through. -/
theorem guarded_next {stop : Option Refusal} {t u : State} (h : guarded stop t = .next u) : stop = none ∧ u = t := by
  cases stop with
  | some r => simp [guarded] at h
  | none => exact ⟨rfl, by simpa [guarded] using h.symm⟩

/-- What one admitted move of the host leaves, the port already advanced: one constructor for each. -/
inductive HostEffect (s : State) : HostMove → State → Prop where
  | init (src pin m leds ref t) : decode src = .init pin m leds ref → Open s → s.valid = false →
      OwnsBuffer ref leds s → InitEffect pin m leds ref s t → HostEffect s (.fetch src) t
  | fill (src p lo hi) : Ready s → HostEffect s (.fetch src) (finishOk (fillPixels p lo hi s))
  | level (src v) : decode src = .setBrightness v → Open s →
      HostEffect s (.fetch src) (finishOk { s with brightness := v })
  | correction (src en) : decode src = .setColorCorrection en → Open s →
      HostEffect s (.fetch src) (finishOk { s with correction := en })
  | update (src) : decode src = .update → Ready s → HostEffect s (.fetch src) (runUpdate s)
  | lookup (src n) : HostEffect s (.fetch src) (lookup n s)
  | illegal (src) : s.phase = .idle → HostEffect s (.fetch src) (answerIllegal s)
  | store (ref i c v) : hostStop ref i s = none → HostEffect s (.store ref i c v) (writeChan ref i.toNat c v s)
  | load (ref i c) : HostEffect s (.load ref i c) { s with hostByte := readChan ref i.toNat c s }
  | resize (ref len) : resizeStop ref s = none →
      HostEffect s (.resize ref len)
        { setBuf ref { len := len, own := .caller, gen := (bufAt ref s).gen + 1 } s with
          pix := s.pix.filter (fun e => !ownsKey ref e.1) }

/-- No source decodes to a stage (R71). -/
theorem decode_not_stage (src : Source) : internalStage (decode src) = false := by
  cases src with
  | command w =>
    simp only [decode, decodeCommand]
    split_ifs <;> rfl
  | tableAddr n =>
    revert n
    decide

theorem fetch_effect {src : Source} {s t : State} (h : exec (decode src) s = .next t) :
    HostEffect s (.fetch src) t := by
  have hs := decode_not_stage src
  cases hd : decode src <;> rw [hd] at h hs <;> simp only [exec] at h
  case init pin m leds ref =>
    obtain ⟨h1, rfl⟩ := guarded_next h
    obtain ⟨a, b, c⟩ := initStop_none h1
    exact .init src pin m leds ref _ hd a b c (initSession_effect ..)
  case fill p lo hi =>
    unfold execFill at h
    split at h
    · cases h
    · split_ifs at h
      cases h
      exact .fill src p _ _ (ready_of_sessionStop ‹_›)
  case fillAll p =>
    obtain ⟨h1, rfl⟩ := guarded_next h
    exact .fill src p _ _ (ready_of_sessionStop h1)
  case setBrightness v =>
    obtain ⟨h1, rfl⟩ := guarded_next h
    exact .level src v hd (open_of_legalStop h1)
  case setColorCorrection en =>
    obtain ⟨h1, rfl⟩ := guarded_next h
    exact .correction src en hd (open_of_legalStop h1)
  case update =>
    obtain ⟨h1, rfl⟩ := guarded_next h
    exact .update src hd (ready_of_sessionStop h1)
  case illegalCmd w =>
    obtain ⟨h1, rfl⟩ := guarded_next h
    refine .illegal src ?_
    unfold commandStop at h1
    split_ifs at h1
    assumption
  all_goals first
    | (simp [internalStage] at hs; done)
    | (cases h; exact .lookup src _)

theorem runMove_effect {m : HostMove} {s t : State} (h : runMove m s = .next t) : HostEffect s m t := by
  cases m with
  | fetch src => exact fetch_effect h
  | store ref i c v =>
    obtain ⟨h1, rfl⟩ := guarded_next h
    exact .store ref i c v h1
  | load ref i c =>
    obtain ⟨-, rfl⟩ := guarded_next h
    exact .load ref i c
  | resize ref len =>
    obtain ⟨h1, rfl⟩ := guarded_next h
    exact .resize ref len h1

/-- Everything a step that answers next can be: the idle wait (R192), a move of the host, TX's submission, or a move of
the transport. -/
theorem step_next {s t : State} (h : step s = .next t) :
    (s.phase = .idle ∧ s.port = [] ∧ t = s) ∨
    (s.phase = .idle ∧ ∃ m rest, s.port = m :: rest ∧ HostEffect (popPort s) m t) ∨
    (s.phase = .building ∧ s.faulted = false ∧ s.valid = true ∧ s.wp = s.wordCount ∧ t = submitTx s) ∨
    (s.phase = .waiting ∧ t = transportMove s) := by
  unfold step at h
  split at h
  · rename_i hp
    split at h
    · rename_i hq
      cases h
      exact .inl ⟨hp, hq, rfl⟩
    · rename_i m rest hq
      exact .inr (.inl ⟨hp, m, rest, hq, runMove_effect h⟩)
  · rename_i hp
    simp only [exec, execTx] at h
    rw [hp] at h
    simp only at h
    split at h
    · cases h
    · rename_i hs
      unfold stageStop at hs
      split_ifs at hs h
      cases h
      simp only [sizeOk, beq_iff_eq] at *
      simp_all
  · rename_i hp
    simp only [exec, execTx] at h
    rw [hp] at h
    simp only at h
    cases h
    exact .inr (.inr (.inr ⟨hp, rfl⟩))

/-! ### What each piece keeps -/

/-- An INIT, however it ends, keeps the settings, the line, `FAULTED` and pixel memory, and TXB unless it opens a
session. -/
theorem InitEffect.keeps {pin : Byte} {m : Model} {leds : Count} {ref : Handle} {s t : State}
    (h : InitEffect pin m leds ref s t) :
    t.brightness = s.brightness ∧ t.correction = s.correction ∧ t.line = s.line ∧ t.faulted = s.faulted ∧
      t.pix = s.pix ∧ (t.txb = s.txb ∨ t.txb = []) := by
  cases h <;> simp [raise, callBus, callDev, callAlloc, openSession, releasePix, releaseOnInitFail, setBuf]

/-- An UPDATE's own step keeps the session, the settings, the line and the table of pixel memories. -/
theorem runUpdate_keeps (s : State) :
    let t := runUpdate s
    (t.valid = s.valid ∧ t.pin = s.pin ∧ t.model = s.model ∧ t.leds = s.leds ∧ t.pixref = s.pixref ∧
      t.resetGap = s.resetGap ∧ t.wordCount = s.wordCount ∧ t.txbBytes = s.txbBytes) ∧
    t.brightness = s.brightness ∧ t.correction = s.correction ∧ t.line = s.line ∧ t.bufs = s.bufs ∧
    t.port = s.port ∧ t.plat = s.plat := by
  have h := (buildFrame_spec s).1
  unfold runUpdate
  simp only
  split_ifs <;> generalize buildFrame s = t at h <;> unfold StagesOnly at h <;> rw [h] <;> simp [submitTx, raise]

/-- An update of the table of pixel memories leaves every other handle alone. -/
theorem bufAt_setBuf_other (s : State) {ref h : Handle} (x : HostBuf) (hne : h ≠ ref) :
    bufAt h (setBuf ref x s) = bufAt h s := by
  have hne' : h.toNat ≠ ref.toNat := fun e => hne (BitVec.eq_of_toNat_eq e)
  simp only [bufAt, setBuf]
  split_ifs
  · congr 1
    generalize s.bufs = m
    induction m with
    | nil => rfl
    | cons e m ih =>
      obtain ⟨k, v⟩ := e
      simp only [Memory.del]
      split_ifs with hk
      · subst hk
        simp [Memory.get?, hne']
      · simp only [Memory.get?, ih]
  · rw [Memory.get_put_other _ hne']

/-! ### Every memory operation keeps the canonical forms -/

/-- The three canonical forms, of pixel memory, of TXB and of the table of pixel memories. -/
def MemoriesWf (s : State) : Prop := Memory.wf s.pix = true ∧ Memory.wf s.txb = true ∧ bufsWf s.bufs = true

theorem memoriesWf_reset : MemoriesWf State.reset := ⟨rfl, rfl, rfl⟩

theorem memoriesWf_writeChan {s : State} (h : MemoriesWf s) (ref : Handle) (i : Nat) (c : Chan) (v : Byte) :
    MemoriesWf (writeChan ref i c v s) := ⟨Memory.put_wf h.1 _ _, h.2⟩

theorem memoriesWf_fillPixels {s : State} (h : MemoriesWf s) (p : Pixel) (lo hi : Nat) :
    MemoriesWf (fillPixels p lo hi s) := by
  have hw := fillPixels_wf h.1 p lo hi
  refine ⟨hw, ?_⟩
  rw [fillPixels_frame]
  exact h.2

theorem memoriesWf_preStage {s : State} (h : MemoriesWf s) (i : Nat) : MemoriesWf (preStage i s) :=
  ⟨preStage_pixWf h.1 i, by rw [preStage_txb]; exact h.2.1, by rw [(preStage_stages i s).bufs]; exact h.2.2⟩

theorem memoriesWf_writeTxb {s : State} (h : MemoriesWf s) (k : Nat) (w : Word) : MemoriesWf (writeTxb k w s) :=
  ⟨by rw [writeTxb_pix]; exact h.1, writeTxb_wf h.2.1 k w, by rw [(writeTxb_stages k w s).bufs]; exact h.2.2⟩

theorem memoriesWf_pushTxb {s : State} (h : MemoriesWf s) (w : Word) : MemoriesWf (pushTxb w s) :=
  memoriesWf_writeTxb h s.wp w

theorem memoriesWf_buildFrame {s : State} (h : MemoriesWf s) : MemoriesWf (buildFrame s) := by
  obtain ⟨h1, -, -, -, h5, h6, -⟩ := buildFrame_spec s
  exact ⟨h5 h.1, h6 h.2.1, by rw [h1.bufs]; exact h.2.2⟩

theorem memoriesWf_setBuf {s : State} (h : MemoriesWf s) (ref : Handle) (x : HostBuf) : MemoriesWf (setBuf ref x s) :=
  ⟨h.1, h.2.1, setBuf_wf h.2.2 ref x⟩

theorem memoriesWf_raise {s : State} (h : MemoriesWf s) (f : Raised) : MemoriesWf (raise f s) := by
  cases f <;> first
    | exact h
    | exact ⟨h.1, h.2.1, releasePix_wf (s := { s with phase := _, inFlight := _, sent := _, result := _, valid := _ }) h.2.2 _⟩

/-- The host's resize drops the cells of the memory it resizes and keeps the others in order. -/
theorem memoriesWf_resize {s : State} (h : MemoriesWf s) (ref : Handle) (x : HostBuf) :
    MemoriesWf { setBuf ref x s with pix := s.pix.filter (fun e => !ownsKey ref e.1) } :=
  ⟨Memory.filter_wf h.1 _, h.2.1, setBuf_wf h.2.2 ref x⟩

/-- What a channel reads as after the host's resize: the resized memory holds nothing fixed, every other memory what it
held. -/
theorem readChan_resize {s : State} {ref h : Handle} (hne : h ≠ ref) (x : HostBuf) {i : Nat} (hi : i < 65536) (c : Chan) :
    readChan h i c { setBuf ref x s with pix := s.pix.filter (fun e => !ownsKey ref e.1) } = readChan h i c s := by
  have hk : ownsKey ref (pixKey h i c) = false := by
    have := chanCode_lt c
    have hne' : h.toNat ≠ ref.toNat := fun e => hne (BitVec.eq_of_toNat_eq e)
    simp only [ownsKey, pixKey, beq_eq_false_iff_ne]
    omega
  have hb : bufAt h { setBuf ref x s with pix := s.pix.filter (fun e => !ownsKey ref e.1) } = bufAt h s :=
    bufAt_setBuf_other s x hne
  simp only [readChan, hb, Memory.get_filter s.pix (fun k => !ownsKey ref k), hk, Bool.not_false, if_true]

end Sys2Proof.Machine
end

