-- ==== Sys2Proof/Tests/Slice0.lean ====
section
/-! SUPPORT. The model's own tests: the well-formedness smoke test, words written out from R70, one step at a time
against the spec's vectors (spec/95_test_vectors.md), and a witness for the hypotheses of every statement. -/

namespace Sys2Proof.Tests

open Sys2Proof.Machine

/-! ### Helpers -/

/-- A session of `n` LEDs on pixel memory 1 with a gap of 3 words, brightness full, correction off. -/
def sess (m : Model) (n : Nat) : State :=
  { State.reset with
    valid := true, model := m, leds := BitVec.ofNat 16 n, pixref := 1#24, resetGap := 3, wordCount := 4 + 6 * n
    txbBytes := some (2 * (4 + 6 * n)), correction := false }

/-- The same with pixels 0, 1, … of the session's memory holding the given colours. -/
def withPixels (ps : List Pixel) (s : State) : State :=
  { s with pix := ps.zipIdx.flatMap (fun e =>
      [(pixKey s.pixref e.2 .r, e.1.r), (pixKey s.pixref e.2 .g, e.1.g), (pixKey s.pixref e.2 .b, e.1.b)]) }

/-- The same with the platform's answers given. -/
def withPlatform (bus dev : RegAnswer) (al : AllocAnswer) (tx : List TxAnswer) (s : State) : State :=
  { s with plat := { bus := [bus], dev := [dev], alloc := [al], tx := tx, taken := 0 } }

/-- The state an outcome answers with; the reset state where there is none. -/
def out : Host.Outcome State Fault Refusal → State
  | .next t => t
  | .fault _ => State.reset
  | .refused _ => State.reset

/-- The words of TXB and the pixels of the session's memory. -/
def words (s : State) : List Word := (List.range s.wordCount).map (fun k => readTxb k s)
def pixels (s : State) : List Pixel := (List.range s.leds.toNat).map (fun i => readPixel s.pixref i s)

/-- A line's bits from a string of 0 and 1, first bit at the left. -/
def bitsOf (l : List Nat) : List Bool := l.map (fun b => b == 1)

/-! ### WellFormed: each check refuses an ill-formed term -/

theorem test_wf_refuses_legal_word_as_illegal : (Instr.illegalCmd 0x0600000000000000#64).wf = false := by decide
theorem test_wf_refuses_index_65535 : (Instr.pre 0xFFFF#16).wf = false := by decide
theorem test_wf_takes_reserved_word : (Instr.illegalCmd 0x0600000000000001#64).wf = true := by decide
theorem test_wf_takes_last_index : (Instr.pre 0xFFFE#16).wf = true := by decide

/-! ### Decoding: words from spec/95 2.11, bit by bit R70's columns -/

theorem test_decode_init_a : decodeCommand 0x0102000003000001#64 = .init 2#8 .variantA 3#16 1#24 := by decide
theorem test_decode_init_b : decodeCommand 0x0105010002000020#64 = .init 5#8 .variantB 2#16 0x20#24 := by decide
theorem test_decode_init_ones : decodeCommand 0x01FF01FFFFFFFFFF#64 = .init 255#8 .variantB 65535#16 0xFFFFFF#24 := by
  decide
theorem test_decode_fill_red : decodeCommand 0x02FF000000000001#64 = .fill ⟨255#8, 0#8, 0#8⟩ 0#16 1#16 := by decide
theorem test_decode_fill_green : decodeCommand 0x0200FF0000010002#64 = .fill ⟨0#8, 255#8, 0#8⟩ 1#16 2#16 := by decide
theorem test_decode_fillAll : decodeCommand 0x03C8643200000000#64 = .fillAll ⟨200#8, 100#8, 50#8⟩ := by decide
theorem test_decode_setBrightness : decodeCommand 0x0480000000000000#64 = .setBrightness 128#8 := by decide
theorem test_decode_setBrightness_0 : decodeCommand 0x0400000000000000#64 = .setBrightness 0#8 := by decide
theorem test_decode_correction_on : decodeCommand 0x0501000000000000#64 = .setColorCorrection true := by decide
theorem test_decode_correction_off : decodeCommand 0x0500000000000000#64 = .setColorCorrection false := by decide
theorem test_decode_update : decodeCommand 0x0600000000000000#64 = .update := by decide

/-- The eight illegal words of spec/95 2.11: three reserved opcodes, then one bit too many in each command. -/
theorem test_decode_reserved_opcodes :
    decodeCommand 0x0000000000000000#64 = .illegalCmd 0x0000000000000000#64 ∧
    decodeCommand 0x0700000000000000#64 = .illegalCmd 0x0700000000000000#64 ∧
    decodeCommand 0xFF00000000000000#64 = .illegalCmd 0xFF00000000000000#64 := by decide
theorem test_decode_reserved_bits :
    decodeCommand 0x0102020003000001#64 = .illegalCmd 0x0102020003000001#64 ∧
    decodeCommand 0x0300000000000001#64 = .illegalCmd 0x0300000000000001#64 ∧
    decodeCommand 0x0401000000000001#64 = .illegalCmd 0x0401000000000001#64 ∧
    decodeCommand 0x0502000000000000#64 = .illegalCmd 0x0502000000000000#64 ∧
    decodeCommand 0x0600000000000001#64 = .illegalCmd 0x0600000000000001#64 := by decide

/-- The sixteen table addresses, through the decoder of opcode-table words (R71, R105). -/
theorem test_decode_lut :
    (List.range 16).map (decodeTableWord 8) =
      [some .lut0, some .lut1, some .lut2, some .lut3, some .lut4, some .lut5, some .lut6, some .lut7,
        some .lut8, some .lut9, some .lutA, some .lutB, some .lutC, some .lutD, some .lutE, some .lutF] := by decide

theorem test_decodeTableWord_update : decodeTableWord 64 0x0600000000000000 = some .update := by decide
theorem test_decodeTableWord_wide : decodeTableWord 8 16 = none := by decide

/-! ### One step each, against the spec's vectors -/

/-- spec/95 2.9, first row: reset, `init(2, VariantA, 3, 1)`, the platform answers ok three times. -/
theorem test_init_opens :
    let t := out (exec (.init 2#8 .variantA 3#16 1#24) (withPlatform .ok .ok .ok [] State.reset))
    t.valid = true ∧ t.pin = 2#8 ∧ t.leds = 3#16 ∧ t.pixref = 1#24 ∧ t.resetGap = 3 ∧ t.wordCount = 22 ∧
      t.txbBytes = some 44 ∧ t.result = ⟨.ok, 0#32⟩ := by decide

/-- spec/95 2.9: the bus fails with 0x103; the device is not asked. -/
theorem test_init_bus_fails :
    let t := out (exec (.init 2#8 .variantA 3#16 1#24) (withPlatform (.fail 0x103#32) .ok .ok [] State.reset))
    t.valid = false ∧ t.result = ⟨.busRegFail, 0x103#32⟩ ∧ (bufAt 1#24 t).own = .released ∧
      t.calls = [.busRegister 2#8] := by decide

/-- spec/95 2.10: `fill((1,2,3), 1, 3)` writes pixels 1 and 2 (`to = LEDS` is legal). -/
theorem test_fill_range :
    pixels (out (exec (.fill ⟨1#8, 2#8, 3#8⟩ 1#16 3#16)
      (withPixels [⟨9#8, 8#8, 7#8⟩, ⟨9#8, 8#8, 7#8⟩, ⟨9#8, 8#8, 7#8⟩] (sess .variantA 3)))) =
      [⟨9#8, 8#8, 7#8⟩, ⟨1#8, 2#8, 3#8⟩, ⟨1#8, 2#8, 3#8⟩] := by decide

/-- spec/95 2.10: `fill((1,2,3), 4, 4)` is refused although the range is empty; `fill((1,2,3), 3, 1)` is not. -/
theorem test_fill_bounds :
    exec (.fill ⟨1#8, 2#8, 3#8⟩ 4#16 4#16) (sess .variantA 3) = .refused .fillRange ∧
    exec (.fill ⟨1#8, 2#8, 3#8⟩ 3#16 1#16) (sess .variantA 3) = .next (sess .variantA 3) := ⟨rfl, rfl⟩

/-- spec/95 2.10: `fill_all` writes every pixel of the session and no pixel beyond. -/
theorem test_fillAll :
    let t := out (exec (.fillAll ⟨200#8, 100#8, 50#8⟩) (withPixels [⟨1#8, 1#8, 1#8⟩, ⟨2#8, 2#8, 2#8⟩, ⟨3#8, 3#8, 3#8⟩] (sess .variantA 2)))
    readPixel 1#24 1 t = ⟨200#8, 100#8, 50#8⟩ ∧ readPixel 1#24 2 t = ⟨3#8, 3#8, 3#8⟩ := by decide

/-- spec/95 P2 step 1: brightness before any session. -/
theorem test_setBrightness : (out (exec (.setBrightness 128#8) State.reset)).brightness = 128#8 := by decide

/-- spec/95 P3 step 1. -/
theorem test_setColorCorrection : (out (exec (.setColorCorrection true) State.reset)).correction = true := by decide

/-- spec/95 S6 and P1 step 5: the source's end-to-end example, all 22 words. -/
theorem test_update_source_example :
    words (out (exec .update (withPixels [⟨255#8, 0#8, 0#8⟩, ⟨0#8, 255#8, 0#8⟩, ⟨0#8, 0#8, 255#8⟩] (sess .variantA 3)))) =
      [0x0000#16, 0x1111#16, 0x1111#16, 0x7777#16, 0x7777#16, 0x1111#16, 0x1111#16, 0x7777#16, 0x7777#16, 0x1111#16,
        0x1111#16, 0x1111#16, 0x1111#16, 0x1111#16, 0x1111#16, 0x1111#16, 0x1111#16, 0x7777#16, 0x7777#16, 0x0000#16,
        0x0000#16, 0x0000#16] := by decide

/-- spec/95 P5 step 5: one pixel at brightness 128, no operand pair on which SCALE has a free choice. -/
theorem test_update_adjusts :
    let t := out (exec .update { withPixels [⟨200#8, 100#8, 50#8⟩] (sess .variantA 1) with brightness := 128#8 })
    words t = [0x0000#16, 0x7711#16, 0x1711#16, 0x1771#16, 0x1171#16, 0x7111#16, 0x7117#16, 0x0000#16, 0x0000#16,
      0x0000#16] ∧
    pixels t = [⟨100#8, 50#8, 25#8⟩] := by decide

/-- spec/95 2.6, third row: the red-green-blue order, were its gap 3. -/
theorem test_build_variantB :
    words (out (exec .build (withPixels [⟨0x12#8, 0x34#8, 0x56#8⟩] (sess .variantB 1)))) =
      [0x0000#16, 0x7111#16, 0x1711#16, 0x7711#16, 0x1171#16, 0x7171#16, 0x1771#16, 0x0000#16, 0x0000#16,
        0x0000#16] := by decide

/-- spec/95 2.6, first row: no LED, guard and gap only. -/
theorem test_build_no_leds : words (out (exec .build (sess .variantA 0))) = [0#16, 0#16, 0#16, 0#16] := by decide

/-- spec/95 2.3, with the spec's default SCALE and curves: brightness comes before correction, seen on blue and on green;
and its fifth row. -/
theorem test_adjust_defaults :
    adjustBy scaleDefault corrGDefault corrBDefault 100#8 true ⟨10#8, 10#8, 10#8⟩ = ⟨3#8, 2#8, 2#8⟩ ∧
    adjustBy scaleDefault corrGDefault corrBDefault 128#8 true ⟨3#8, 3#8, 3#8⟩ = ⟨1#8, 0#8, 0#8⟩ ∧
    adjustBy scaleDefault corrGDefault corrBDefault 255#8 true ⟨255#8, 255#8, 255#8⟩ = ⟨255#8, 176#8, 240#8⟩ := by decide

/-- spec/95 2.3, second row: the adjusted pixel is PRE's result. -/
theorem test_pre_scales :
    (out (exec (.pre 0#16) { withPixels [⟨200#8, 100#8, 50#8⟩] (sess .variantA 1) with brightness := 128#8 })).work =
      ⟨100#8, 50#8, 25#8⟩ := by decide

/-- spec/95 2.3, rows with level 0 and correction on: the adjusted pixel is written back, whatever the curves. -/
theorem test_pre_writes_back :
    pixels (out (exec (.pre 0#16) { withPixels [⟨200#8, 100#8, 50#8⟩] (sess .variantA 1) with
      brightness := 0#8, correction := true })) = [⟨0#8, 0#8, 0#8⟩] := by decide

/-- R92 laws L3 and L5, at a pair with a free choice, at one without, and at full brightness: both choices. -/
theorem test_scaleBy :
    scaleBy (fun _ _ => true) 51#8 155#8 = 30#8 ∧ scaleBy (fun _ _ => false) 51#8 155#8 = 31#8 ∧
    scaleBy (fun _ _ => true) 254#8 254#8 = 253#8 ∧ scaleBy (fun _ _ => true) 128#8 255#8 = 128#8 := by decide

/-- R93 laws C1 to C3 cut wild points down to a curve: 255 at every point gives the identity. -/
theorem test_curveBy : curveBy (fun _ => 255#8) 0#8 = 0#8 ∧ curveBy (fun _ => 255#8) 20#8 = 20#8 ∧
    curveBy corrGDefault 3#8 = 2#8 := by decide

/-- spec/95 2.5, first two rows. -/
theorem test_mux_orders :
    (out (exec (.mux ⟨0x12#8, 0x34#8, 0x56#8⟩) (sess .variantA 0))).muxOut = ⟨0x34#8, 0x12#8, 0x56#8⟩ ∧
    (out (exec (.mux ⟨0x12#8, 0x34#8, 0x56#8⟩) (sess .variantB 0))).muxOut = ⟨0x12#8, 0x34#8, 0x56#8⟩ := by decide

/-- spec/95 2.4, the rows of 0xA5 and 0xFE. -/
theorem test_enc :
    (out (exec (.enc 0xA5#8) State.reset)).encOut = ⟨0x1717#16, 0x7171#16⟩ ∧
    (out (exec (.enc 0xFE#8) State.reset)).encOut = ⟨0x7777#16, 0x1777#16⟩ := by decide

/-- R105, row by row. -/
theorem test_lut_rows :
    [Instr.lut0, .lut1, .lut2, .lut3, .lut4, .lut5, .lut6, .lut7, .lut8, .lut9, .lutA, .lutB, .lutC, .lutD, .lutE,
      .lutF].map (fun i => (out (exec i State.reset)).lutOut) =
      [0x1111#16, 0x7111#16, 0x1711#16, 0x7711#16, 0x1171#16, 0x7171#16, 0x1771#16, 0x7771#16, 0x1117#16, 0x7117#16,
        0x1717#16, 0x7717#16, 0x1177#16, 0x7177#16, 0x1777#16, 0x7777#16] := by decide

/-- spec/95 2.4: DEC's rows, and two words it has no value on. -/
theorem test_dec :
    dec 0x7171#16 = some 5#4 ∧ dec 0x1717#16 = some 10#4 ∧ dec 0x0000#16 = none ∧ dec 0x1234#16 = none := by decide

/-- spec/95 2.8: the bits of word 0x7111, first bit first. -/
theorem test_wordBits : wordBits 0x7111#16 = bitsOf [1, 0, 0, 0, 1, 0, 0, 0, 1, 0, 0, 0, 1, 1, 1, 0] := by decide

/-- A session whose frame is built and submitted. -/
def waiting (ps : List Pixel) (tx : List TxAnswer) : State :=
  out (exec .update (withPlatform .ok .ok .ok tx (withPixels ps (sess .variantA ps.length))))

/-- spec/95 2.8 and P6: `done` puts all 64 bits of the frame without LEDs on the line. -/
theorem test_tx_done :
    let t := out (exec .tx (waiting [] [.done]))
    t.line = List.replicate 64 false ∧ t.result = ⟨.ok, 0#32⟩ ∧ t.phase = .idle ∧ t.inFlight = false := by decide

/-- spec/95 2.8: `fault(0x107)` after 20 further bits: guard word and four bits of `TABLE[0]`. -/
theorem test_tx_fault :
    let t := out (exec .tx (waiting [⟨255#8, 0#8, 0#8⟩] [.fault 0x107#32 20]))
    t.line = List.replicate 16 false ++ bitsOf [1, 0, 0, 0] ∧ t.result = ⟨.transferError, 0x107#32⟩ ∧
      t.valid = true ∧ t.phase = .idle := by decide

/-- spec/95 P7: an illegal word changes the result only. -/
theorem test_illegalCmd :
    exec (.illegalCmd 0x0700000000000000#64) State.reset =
      .next { State.reset with result := ⟨.illegalCmd, 0#32⟩ } := by rfl

/-- R72's codes, packed (log entry 17). -/
theorem test_result_word : Result.word ⟨.transferError, 0x107#32⟩ = 0x400000107#35 := by decide

/-- R151, R150: the host reads back what it stored. -/
theorem test_host_store_load :
    let t := out (hostStore 1#24 0#16 .g 7#8 (sess .variantA 1))
    (out (hostLoad 1#24 0#16 .g t)).hostByte = 7#8 := by decide

/-- R165 (g): the pixel just beyond the session's buffer. -/
theorem test_host_store_beyond : hostStore 1#24 1#16 .g 7#8 (sess .variantA 1) = .refused .pixIndex := by rfl

/-! ### Witnesses: concrete states that meet the hypotheses of the statements -/

theorem sess_ready (m : Model) (n : Nat) : Ready (sess m n) := ⟨⟨rfl, rfl⟩, rfl⟩
theorem sess_stageReady (m : Model) (n : Nat) : StageReady (sess m n) := ⟨by simp [sess, State.reset], rfl, rfl⟩

theorem wit_sized : Sized (sess .variantA 0) ∧ Sized (sess .variantA 1) ∧ Sized (sess .variantA 65535) :=
  ⟨by unfold Sized; decide, by unfold Sized; decide, by unfold Sized; decide⟩

/-- A session whose `WORD_COUNT` is one word short. -/
def short : State := { sess .variantA 1 with wordCount := 9 }

theorem wit_SizeMismatchIsFatal : ¬ Sized short ∧ StageReady short ∧ Ready short :=
  ⟨by unfold Sized; decide, ⟨by decide, rfl, rfl⟩, ⟨⟨rfl, rfl⟩, rfl⟩⟩

theorem sound_waiting : Sound (waiting [] [.clock 5, .done]) := by
  constructor <;> first | decide | (unfold Sized; decide) | (unfold OwnsBuffer; decide)

theorem wit_StepKeepsInvariant :
    Sound (waiting [] [.clock 5, .done]) ∧
      ∃ t, step (waiting [] [.clock 5, .done]) = .next t ∧ t.sent = 5 := ⟨sound_waiting, _, rfl, by decide⟩

theorem wit_DecodeUndoesEncode :
    (Instr.init 255#8 .variantB 65535#16 0xFFFFFF#24).wf = true ∧
    encode (.init 255#8 .variantB 65535#16 0xFFFFFF#24) = some (.command 0x01FF01FFFFFFFFFF#64) ∧
    (Instr.illegalCmd 0#64).wf = true ∧ encode (.illegalCmd 0#64) = some (.command 0#64) ∧
    Instr.lutF.wf = true ∧ encode .lutF = some (.tableAddr 15#4) := by decide

theorem wit_StepRunsTheDecodedOperation :
    (let s := { sess .variantA 1 with port := [.fetch (.command 0x0600000000000000#64)] };
      s.phase = .idle ∧ s.port = [.fetch (.command 0x0600000000000000#64)]) ∧
    decodeTableWord 8 15 = some .lutF ∧ decodeTableWord 64 0xFFFFFFFFFFFFFFFF = some (.illegalCmd 0xFFFFFFFFFFFFFFFF#64) := by
  decide

theorem wit_StepWaitsOrRunsTx :
    State.reset.phase = .idle ∧ State.reset.port = [] ∧ (waiting [] [.done]).phase ≠ .idle ∧
      (out (exec .build (sess .variantA 0))).phase ≠ .idle := by decide

theorem wit_MuxOrdersTheChannels :
    (sess .variantA 0).valid = true ∧ (sess .variantA 0).model = .variantA ∧ (sess .variantB 0).valid = true ∧
      (sess .variantB 0).model = .variantB ∧ State.reset.valid = false := by decide

theorem wit_ScaleMeetsItsLaws :
    ¬ 255 ∣ (254#8 : Byte).toNat * (1#8 : Byte).toNat ∧ 255 ∣ (51#8 : Byte).toNat * (155#8 : Byte).toNat ∧
      255 ∣ (0#8 : Byte).toNat * (0#8 : Byte).toNat := by decide

theorem wit_CorrectionMeetsItsLaws : (254#8 : Byte) ≤ 255#8 ∧ (255#8 : Byte) ≤ 255#8 := by decide

theorem wit_BrightnessComesBeforeCorrection : (254#8 : Byte) ≠ 255#8 := by decide

theorem wit_PreAdjustsOnePixelInPlace :
    StageReady (sess .variantA 2) ∧ 1#16 < (sess .variantA 2).leds ∧ PreOff (sess .variantA 2) :=
  ⟨sess_stageReady _ _, by decide, ⟨rfl, rfl⟩⟩

theorem wit_PreRefusedOutsideTheBuffer :
    (StageReady (sess .variantA 2) ∧ (sess .variantA 2).leds ≤ 2#16) ∧ (waiting [] []).phase = .waiting ∧
    (State.reset.phase ≠ .waiting ∧ ({ State.reset with faulted := true } : State).faulted = true) ∧
    (State.reset.faulted = false ∧ State.reset.valid = false) :=
  ⟨⟨sess_stageReady _ _, by decide⟩, by decide, by decide, by decide⟩

theorem wit_BuildWritesTheFrame : StageReady (sess .variantA 1) ∧ Sized (sess .variantA 1) :=
  ⟨sess_stageReady _ _, wit_sized.2.1⟩

theorem wit_UpdateBuildsThenSubmits :
    (Ready (sess .variantA 65535) ∧ Sized (sess .variantA 65535)) ∧ Ready (sess .variantA 0) ∧ Sized (sess .variantA 0) :=
  ⟨⟨sess_ready _ _, wit_sized.2.2⟩, sess_ready _ _, wit_sized.1⟩

theorem wit_SessionCommandsRefused :
    (waiting [] []).phase ≠ .idle ∧
    (({ State.reset with faulted := true } : State).phase = .idle ∧ ({ State.reset with faulted := true } : State).faulted = true) ∧
    (Open State.reset ∧ State.reset.valid = false) := ⟨by decide, by decide, ⟨rfl, rfl⟩, rfl⟩

theorem wit_UpdateKeepsPixelsWhenPreIsOff :
    Ready (sess .variantA 1) ∧ Sized (sess .variantA 1) ∧ PreOff (sess .variantA 1) :=
  ⟨sess_ready _ _, wit_sized.2.1, ⟨rfl, rfl⟩⟩

theorem wit_BrightnessZeroSendsTableZero :
    let s := { sess .variantA 1 with brightness := 0#8 }
    Ready s ∧ Sized s ∧ s.brightness = 0#8 := ⟨⟨⟨rfl, rfl⟩, rfl⟩, wit_sized.2.1, rfl⟩

/-- UpdateNeverBrightens, FrameDecodesToThePixels, FrameHoldsZeroAndTableWords: a session of one LED. -/
theorem wit_frame_statements : Ready (sess .variantA 1) ∧ Sized (sess .variantA 1) := ⟨sess_ready _ _, wit_sized.2.1⟩

/-- A built frame, not submitted yet. -/
def built : State := out (exec .build (sess .variantA 0))

theorem wit_TxSubmitsTheWholeBuffer : StageReady built ∧ built.phase = .building ∧ built.wp = built.wordCount :=
  ⟨⟨by decide, by decide, by decide⟩, by decide, by decide⟩

theorem wit_TxRefusedWithoutAFrame :
    State.reset.phase = .idle ∧
    (let s := { built with wp := 3 };
      StageReady s ∧ s.phase = .building ∧ s.wp ≠ s.wordCount) :=
  ⟨rfl, ⟨by decide, by decide, by decide⟩, by decide, by decide⟩

theorem wit_TxDoneEndsUpdate :
    let s := waiting [] [.done]
    s.phase = .waiting ∧ s.sent ≤ 16 * s.wordCount ∧ txAnswer s = .done := by decide

theorem wit_TxFaultIsSurfaced :
    let s := waiting [] [.fault 0x107#32 0]
    s.phase = .waiting ∧ txAnswer s = .fault 0x107#32 0 := by decide

theorem wit_TransferPutsTheFrameOnTheLine :
    let s := waiting [] [.clock 0, .clock 100, .done]
    s.phase = .waiting ∧ s.sent = 0 ∧ s.plat.tx = clocks [0, 100] ++ TxAnswer.done :: [] := by decide

theorem wit_SilentTransportBlocksForEver :
    let s := waiting [] [.clock 0, .clock 1]
    s.phase = .waiting ∧ s.inFlight = true ∧ s.plat.tx = clocks [0, 1] ++ [] := by decide

/-- The states of the four INIT outcomes: no session, memory 1 the caller's and long enough. -/
theorem wit_InitOpensASession :
    let s := withPlatform .ok .ok .ok [] State.reset
    Open s ∧ s.valid = false ∧ OwnsBuffer 1#24 65535#16 s ∧ busAnswer s = .ok ∧ devAnswer (callBus 2#8 s) = .ok ∧
      allocAnswer (callDev (callBus 2#8 s)) = .ok :=
  ⟨⟨rfl, rfl⟩, rfl, ⟨rfl, by decide⟩, rfl, rfl, rfl⟩

theorem wit_InitFaultsReleaseTheBuffer :
    (Open State.reset ∧ State.reset.valid = false ∧ OwnsBuffer 1#24 0#16 State.reset) ∧
    busAnswer (withPlatform (.fail 0x103#32) .ok .ok [] State.reset) = .fail 0x103#32 ∧
    (let s := withPlatform .ok (.fail 0x105#32) .ok [] State.reset;
      busAnswer s = .ok ∧ devAnswer (callBus 2#8 s) = .fail 0x105#32) ∧
    (let s := withPlatform .ok .ok .fail [] State.reset;
      busAnswer s = .ok ∧ devAnswer (callBus 2#8 s) = .ok ∧ allocAnswer (callDev (callBus 2#8 s)) = .fail) :=
  ⟨⟨⟨rfl, rfl⟩, rfl, ⟨rfl, by decide⟩⟩, rfl, ⟨rfl, rfl⟩, ⟨rfl, rfl, rfl⟩⟩

/-- A reset state in which memory 1 was released, and one in which it has two pixels. -/
def released : State := releasePix 1#24 State.reset
def twoPixels : State := setBuf 1#24 ⟨2#16, .caller, 1⟩ State.reset

theorem wit_InitRefusals :
    (waiting [] []).phase ≠ .idle ∧ ({ State.reset with faulted := true } : State).phase = .idle ∧
    (Open (sess .variantA 0) ∧ (sess .variantA 0).valid = true) ∧
    (Open released ∧ released.valid = false ∧ (bufAt 1#24 released).own = .released) ∧
    (Open twoPixels ∧ twoPixels.valid = false ∧ (bufAt 1#24 twoPixels).own = .caller ∧
      (bufAt 1#24 twoPixels).len < 3#16) :=
  ⟨by decide, rfl, ⟨⟨rfl, rfl⟩, rfl⟩, ⟨⟨rfl, rfl⟩, rfl, by decide⟩, ⟨⟨rfl, rfl⟩, rfl, by decide, by decide⟩⟩

theorem wit_FillWritesTheHalfOpenRange :
    Ready (sess .variantA 3) ∧ 3#16 ≤ (sess .variantA 3).leds ∧ 0#16 ≤ (sess .variantA 3).leds ∧ (2#16 : Count) ≤ 2#16 :=
  ⟨sess_ready _ _, by decide, by decide, by decide⟩

theorem wit_FillRefusedBeyondLeds :
    Ready (sess .variantA 3) ∧ (sess .variantA 3).leds < 4#16 ∧ (sess .variantA 3).leds < 65535#16 :=
  ⟨sess_ready _ _, by decide, by decide⟩

/-- FillAllIsTheFullRangeFill. -/
theorem wit_FillAll : Ready (sess .variantA 0) ∧ Ready (sess .variantA 65535) := ⟨sess_ready _ _, sess_ready _ _⟩

/-- The settings commands are admitted with and without a session, and refused in the two cases. -/
theorem wit_settings_statements :
    Open State.reset ∧ Open (sess .variantA 1) ∧ (waiting [] []).phase ≠ .idle ∧
      ({ State.reset with faulted := true } : State).faulted = true := ⟨⟨rfl, rfl⟩, ⟨rfl, rfl⟩, by decide, rfl⟩

theorem wit_IllegalCommandWritesResultOnly :
    ({ State.reset with faulted := true } : State).phase = .idle ∧ (waiting [] []).phase ≠ .idle := by decide

theorem wit_HostStoresAndLoadsPixels :
    let s := sess .variantA 2
    s.phase = .idle ∧ (bufAt 1#24 s).own = .caller ∧ 1#16 < (bufAt 1#24 s).len ∧
      (s.valid = true → 1#24 = s.pixref → 1#16 < s.leds) := by decide

theorem wit_HostAccessRefusals :
    ((waiting [] []).phase ≠ .idle) ∧ (released.phase = .idle ∧ (bufAt 1#24 released).own = .released) ∧
    (let s := sess .variantA 2;
      s.phase = .idle ∧ (bufAt 1#24 s).own = .caller ∧ s.valid = true ∧ 1#24 = s.pixref ∧ s.leds ≤ 2#16) ∧
    (twoPixels.phase = .idle ∧ (bufAt 1#24 twoPixels).own = .caller ∧ (bufAt 1#24 twoPixels).len ≤ 2#16) := by decide

theorem wit_SessionBufferStaysInPlace :
    (released.phase = .idle ∧ (bufAt 1#24 released).own = .released) ∧
    ((sess .variantA 2).phase = .idle ∧ (bufAt 1#24 (sess .variantA 2)).own = .caller ∧ (sess .variantA 2).valid = true ∧
      1#24 = (sess .variantA 2).pixref) := by decide

/-- ConfigurationFunctionsAreBoundByLawsOnly: the identity is a lawful curve, and the exact quotient a lawful scaling. -/
theorem wit_lawful_curve :
    (id 0#8 = (0#8 : Byte)) ∧ (∀ v : Byte, id v ≤ v) ∧ ∀ x y : Byte, x ≤ y → id x ≤ id y :=
  ⟨rfl, fun _ => BitVec.le_refl _, fun _ _ h => h⟩

theorem wit_lawful_scale :
    (∀ c, scaleDefault c 0#8 = 0#8) ∧ (∀ b, scaleDefault 0#8 b = 0#8) ∧
    (∀ c b, (scaleDefault c b).toNat = c.toNat * b.toNat / 255) ∧ (∀ c b, scaleDefault c b ≤ c) ∧
    ∀ c, scaleDefault c 255#8 = c := by
  have val : ∀ c b : Byte, (scaleDefault c b).toNat = c.toNat * b.toNat / 255 := by
    intro c b
    have : c.toNat * b.toNat ≤ 255 * 255 := Nat.mul_le_mul (by omega) (by omega)
    simp only [scaleDefault, BitVec.toNat_ofNat]
    apply Nat.mod_eq_of_lt
    omega
  refine ⟨?_, ?_, val, ?_, ?_⟩
  · intro c
    apply BitVec.eq_of_toNat_eq
    simp [val]
  · intro b
    apply BitVec.eq_of_toNat_eq
    simp [val]
  · intro c b
    have : c.toNat * b.toNat ≤ c.toNat * 255 := Nat.mul_le_mul_left _ (by omega)
    rw [BitVec.le_def, val]
    omega
  · intro c
    apply BitVec.eq_of_toNat_eq
    simp [val]

/-! The statements about every step: a step of each kind that answers a next state. -/

/-- A session with one command on its port. -/
def withCommand (w : Command) (s : State) : State := { s with port := [.fetch (.command w)] }

/-- SessionRegistersAreFixed and LineGrowsOnlyByTheFrame: an UPDATE step of a session, and a step of the wait. -/
theorem wit_session_steps :
    ((withCommand 0x0600000000000000#64 (sess .variantA 0)).valid = true ∧
      ∃ t, step (withCommand 0x0600000000000000#64 (sess .variantA 0)) = .next t ∧ t.phase = .waiting) ∧
    ((waiting [] [.clock 3]).valid = true ∧
      ∃ t, step (waiting [] [.clock 3]) = .next t ∧ t.line = [false, false, false]) :=
  ⟨⟨by decide, _, rfl, by decide⟩, by decide, _, rfl, by decide⟩

theorem wit_FaultedIsNeverCleared :
    let s := withCommand 0#64 { sess .variantA 0 with faulted := true }
    s.faulted = true ∧ s.phase = .idle ∧ ∃ t, step s = .next t ∧ t.result = ⟨.illegalCmd, 0#32⟩ :=
  ⟨rfl, rfl, _, rfl, rfl⟩

theorem wit_OnlySettingsCommandsWriteSettings :
    (∃ t, step (withCommand 0x0480000000000000#64 State.reset) = .next t ∧ t.brightness = 128#8) ∧
    (∃ t, step (withCommand 0x0501000000000000#64 State.reset) = .next t ∧ t.correction = true) :=
  ⟨⟨_, rfl, by decide⟩, ⟨_, rfl, by decide⟩⟩

theorem wit_MemoriesAreStableInFlight :
    let s := waiting [] [.done]
    s.phase = .waiting ∧ ∃ t, step s = .next t ∧ t.phase = .idle := ⟨by decide, _, rfl, by decide⟩

theorem wit_OnlyBuildWritesTxb :
    ∃ t, step (withCommand 0x0600000000000000#64 (sess .variantA 0)) = .next t ∧
      t.txb ≠ (withCommand 0x0600000000000000#64 (sess .variantA 0)).txb := ⟨_, rfl, by decide⟩

theorem wit_ReleasedMemoryStaysReleased :
    (bufAt 1#24 (withCommand 0x0400000000000000#64 released)).own = .released ∧
      ∃ t, step (withCommand 0x0400000000000000#64 released) = .next t ∧ t.brightness = 0#8 :=
  ⟨by decide, _, rfl, by decide⟩

theorem wit_RetryAfterTransferErrorAdjustsAgain :
    let s := withPlatform .ok .ok .ok [.fault 0x107#32 9] (sess .variantA 0)
    Ready s ∧ Sized s ∧ ∃ t, exec .update s = .next t ∧ txAnswer t = .fault 0x107#32 9 ∧
      ∃ u, exec .tx t = .next u ∧ u.phase = .idle :=
  ⟨⟨⟨rfl, rfl⟩, rfl⟩, wit_sized.1, _, rfl, by decide, _, rfl, by decide⟩

end Sys2Proof.Tests
end

section
/-! The two nibbles of a channel byte as numbers (R62), and the settlement of O14. -/

namespace Sys2Proof.Machine

/-- R62: the high nibble is the byte's quotient by 16. -/
theorem hiNibble_toNat (v : Byte) : (hiNibble v).toNat = v.toNat / 16 := by
  have hlt : v.toNat / 16 < 16 := Nat.div_lt_of_lt_mul v.isLt
  rw [hiNibble, BitVec.extractLsb'_toNat, Nat.shiftRight_eq_div_pow]
  exact Nat.mod_eq_of_lt hlt

/-- R62: the low nibble is the byte's remainder by 16. -/
theorem loNibble_toNat (v : Byte) : (loNibble v).toNat = v.toNat % 16 := by
  rw [loNibble, BitVec.extractLsb'_toNat, Nat.shiftRight_zero]

/-- Settles O14: the slices are the nibbles' definitions, and the sum is division by 16 with remainder. -/
theorem channelByteSplitsIntoNibbles : Obligations.ChannelByteSplitsIntoNibbles := by
  intro v
  refine ⟨rfl, rfl, ?_⟩
  rw [hiNibble_toNat, loNibble_toNat]
  exact (Nat.div_add_mod' v.toNat 16).symm

end Sys2Proof.Machine
end

section
/-! TABLE as symbols and its inverse (R102, R103), ENC's whole effect (R100), and the settlements of O13, O15, O16. -/

namespace Sys2Proof.Machine

/-- A logical bit on the line (R103, R105): the long high pulse for a 1, the short one for a 0. -/
def symbol (b : Bool) : Nibble := if b then 7#4 else 1#4

/-- R103: time order is bit 0 first, so a symbol begins high. -/
theorem symbol_first_bit (b : Bool) : (symbol b).getLsbD 0 = true := by cases b <;> rfl

/-- R103: a symbol ends low. -/
theorem symbol_last_bit (b : Bool) : (symbol b).getLsbD 3 = false := by cases b <;> rfl

theorem symbol_false_ne_true : symbol false ≠ symbol true := by decide

/-- R105's closed form: the nibble's most significant bit is the word's lowest symbol. -/
theorem table_eq_symbols : ∀ n : Nibble,
    table n = symbol (n.getLsbD 0) ++ symbol (n.getLsbD 1) ++ symbol (n.getLsbD 2) ++ symbol (n.getLsbD 3) := by
  decide

/-- Bit `j` of the word's symbol `k` is bit `j` of the symbol of nibble bit `3 - k`. -/
theorem table_getLsbD (n : Nibble) {k j : Nat} (hk : k < 4) (hj : j < 4) :
    (table n).getLsbD (4 * k + j) = (symbol (n.getLsbD (3 - k))).getLsbD j := by
  rw [table_eq_symbols]
  simp only [BitVec.getLsbD_append]
  interval_cases k
  all_goals
    simp (disch := omega) only [if_pos, if_neg]
    exact congrArg _ (by omega)

/-- R103: the first bit of every symbol of a table word is high. -/
theorem table_symbol_first_bit (n : Nibble) {k : Nat} (hk : k < 4) : (table n).getLsbD (4 * k) = true :=
  (table_getLsbD n hk (j := 0) (by decide)).trans (symbol_first_bit _)

/-- R103: the last bit of every symbol of a table word is low. -/
theorem table_symbol_last_bit (n : Nibble) {k : Nat} (hk : k < 4) : (table n).getLsbD (4 * k + 3) = false :=
  (table_getLsbD n hk (j := 3) (by decide)).trans (symbol_last_bit _)

/-- The zero word is no table word: it does not begin high. -/
theorem table_ne_zero (n : Nibble) : table n ≠ 0#16 := by
  intro h
  have hbit : (table n).getLsbD 0 = true := table_symbol_first_bit n (k := 0) (by decide)
  simp [h] at hbit

/-- Settles O13: the two symbols are `0x1` and `0x7`, and symbol `k` stands for nibble bit `3 - k`. -/
theorem tableIsFourSymbols : Obligations.TableIsFourSymbols := by
  refine ⟨symbol, Fin.rev, symbol_false_ne_true, ?_, Fin.rev_injective, fun n => ⟨?_, table_ne_zero n, ?_⟩⟩
  · intro b
    cases b with
    | false => exact .inl rfl
    | true => exact .inr (.inr rfl)
  · exact table_eq_symbols n
  · exact fun k hk => ⟨table_symbol_first_bit n hk, table_symbol_last_bit n hk⟩

/-- R107's closed form inverts TABLE's literals. -/
theorem decBits_table : ∀ n : Nibble, decBits (table n) = n := by decide

/-- R102: a table word decodes to its nibble. -/
@[simp] theorem dec_table (n : Nibble) : dec (table n) = some n := by simp [dec, decBits_table]

/-- R102: TABLE has a left inverse, so its entries are pairwise different. -/
theorem table_injective : Function.Injective table := Function.LeftInverse.injective decBits_table

/-- R100: ENC writes its own output and TABLE's, and no other field. -/
theorem encStage_eq (v : Byte) (s : State) :
    encStage v s = { s with encOut := encPair v, lutOut := table (loNibble v) } := rfl

/-- R100: ENC completes in every state. -/
theorem exec_enc (v : Byte) (s : State) : exec (.enc v) s = .next (encStage v s) := rfl

/-- Settles O15: ENC's pair is TABLE at the two slices of the byte. -/
theorem encEmitsHighThenLow : Obligations.EncEmitsHighThenLow := by
  intro v s
  rw [exec_enc, encStage_eq, encPair, hiNibble, loNibble]

/-- Settles O16: DEC is TABLE's left inverse, and the two nibbles it reads back make up the byte (R62). -/
theorem encodedBytesRoundTrip : Obligations.EncodedBytesRoundTrip := by
  refine ⟨fun _ _ h => table_injective h, dec_table, fun v s => ⟨encStage v s, exec_enc v s, ?_⟩⟩
  rw [encStage_encOut, encPair]
  refine ⟨hiNibble v, loNibble v, dec_table _, dec_table _, ?_⟩
  rw [hiNibble_toNat, loNibble_toNat]
  exact Nat.div_add_mod' v.toNat 16

end Sys2Proof.Machine
end

section
/-! The wait for the transport (R124 to R127) step by step, and the settlement of O38. -/

namespace Sys2Proof.Machine

/-- R124: during the wait TX takes the transport's next move. -/
theorem exec_tx_of_waiting {s : State} (h : s.phase = .waiting) : exec .tx s = .next (transportMove s) := by
  simp only [exec, execTx, h]

/-- R49, R124: during the wait TX is what a step of the block runs. -/
theorem step_of_waiting {s : State} (h : s.phase = .waiting) : step s = .next (transportMove s) := by
  simp only [step, h]
  exact exec_tx_of_waiting h

/-- The transport's next move is the first one listed. -/
theorem txAnswer_of_cons {s : State} {a : TxAnswer} {l : List TxAnswer} (h : s.plat.tx = a :: l) : txAnswer s = a := by
  rw [txAnswer, h, List.headD_cons]

/-- R126: a move without an answer only clocks bits out. -/
theorem transportMove_of_clock {s : State} {n : Nat} (h : txAnswer s = .clock n) :
    transportMove s = clockOut n (takeTx s) := by
  simp only [transportMove, h]

/-- A run starts with its first step. -/
theorem run_succ_of_step (M : Host.Core) {s t : M.State} (k : Nat) (h : M.step s = .next t) :
    M.run (k + 1) s = M.run k t := by
  rw [Host.Core.run, h]

/-- `t` differs from `s` at most in the line, how far the transfer has got, and the transport's inputs. -/
def LineOnly (s t : State) : Prop := t = { s with line := t.line, sent := t.sent, plat := t.plat }

theorem LineOnly.refl (s : State) : LineOnly s s := rfl

theorem LineOnly.trans {s t u : State} (h : LineOnly s t) (h' : LineOnly t u) : LineOnly s u := by
  unfold LineOnly at *
  rw [h', h]

theorem lineOnly_clockOut_takeTx (n : Nat) (s : State) : LineOnly s (clockOut n (takeTx s)) := rfl

theorem LineOnly.phase {s t : State} (h : LineOnly s t) : t.phase = s.phase := by rw [h]
theorem LineOnly.inFlight {s t : State} (h : LineOnly s t) : t.inFlight = s.inFlight := by rw [h]

/-- R126: a run over moves without an answer takes those moves, and touches the line only. -/
theorem run_clocks (ns : List Nat) (more : List TxAnswer) (s : State) (hp : s.phase = .waiting)
    (htx : s.plat.tx = clocks ns ++ more) :
    ∃ t, core.run ns.length s = .next t ∧ LineOnly s t ∧ t.plat.tx = more := by
  induction ns generalizing s with
  | nil => exact ⟨s, rfl, .refl s, htx⟩
  | cons n ns ih =>
    have hmove : transportMove s = clockOut n (takeTx s) := transportMove_of_clock (txAnswer_of_cons htx)
    have hstep : step s = .next (clockOut n (takeTx s)) := by rw [step_of_waiting hp, hmove]
    have hrest : (clockOut n (takeTx s)).plat.tx = clocks ns ++ more := congrArg List.tail htx
    obtain ⟨t, hrun, hline, hmore⟩ := ih (clockOut n (takeTx s)) hp hrest
    exact ⟨t, (run_succ_of_step core ns.length hstep).trans hrun, (lineOnly_clockOut_takeTx n s).trans hline, hmore⟩

/-- Settles O38, by induction on the transport's moves: each is a step of the wait that touches the line only. -/
theorem silentTransportBlocksForEver : Obligations.SilentTransportBlocksForEver := by
  intro ns more s hp hf htx
  obtain ⟨t, hrun, hline, hmore⟩ := run_clocks ns more s hp htx
  exact ⟨t, hrun, hline.phase.trans hp, hline.inFlight.trans hf, hline, hmore⟩

end Sys2Proof.Machine
end

section
/-! UPDATE's own step on the pixels and its admission (R140, R147), a transfer error (R125, R171), and the settlement
of O59. -/

namespace Sys2Proof.Machine

/-- R140: UPDATE is admitted exactly where the block is ready, and then BUILD and the submission run. -/
theorem exec_update_next_iff {s t : State} : exec .update s = .next t ↔ Ready s ∧ t = runUpdate s := by
  constructor
  · intro h
    obtain ⟨hstop, rfl⟩ := guarded_next h
    exact ⟨ready_of_sessionStop hstop, rfl⟩
  · rintro ⟨hr, rfl⟩
    simp only [exec, execUpdate, sessionStop_ready hr, guarded]

/-- R116, R147: with the size invariant BUILD's frame is submitted. -/
theorem runUpdate_of_sized {s : State} (h : Sized s) : runUpdate s = submitTx (buildFrame s) :=
  if_pos ((sizeOk_iff s).2 h)

theorem StagesOnly.faulted {s t : State} (h : StagesOnly s t) : t.faulted = s.faulted := by rw [h]

/-- R147: the admitted UPDATE of a sized session leaves the block waiting, `FAULTED` as it was. -/
theorem runUpdate_waits {s : State} (h : Sized s) :
    (runUpdate s).phase = .waiting ∧ (runUpdate s).faulted = s.faulted := by
  rw [runUpdate_of_sized h]
  obtain ⟨hstages, -⟩ := buildFrame_spec s
  exact ⟨rfl, hstages.faulted⟩

/-- R95, R113: an UPDATE adjusts each pixel of the session once, whether or not its size check passes. -/
theorem readPixel_runUpdate (s : State) {i : Nat} (hi : i < s.leds.toNat) :
    readPixel s.pixref i (runUpdate s) = adjusted s i := by
  have hsame : readPixel s.pixref i (runUpdate s) = readPixel s.pixref i (buildFrame s) := by
    simp only [runUpdate]
    split_ifs <;> rfl
  rw [hsame, (buildFrame_pixels s).inside i hi]

/-- `t` is `s` after a transfer error `e`: the error in `RESULT`, the transfer ended, the line and the transport's
inputs moved on, and everything else as it was (R125, R171). -/
def TransferFailed (e : ErrCode) (s t : State) : Prop :=
  t = { s with
    result := ⟨.transferError, e⟩, inFlight := false, phase := .idle, sent := 0, line := t.line, plat := t.plat }

/-- R125: the transport's fault is taken with the code it reports. -/
theorem transportMove_of_fault {s : State} {e : ErrCode} {n : Nat} (h : txAnswer s = .fault e n) :
    TransferFailed e s (transportMove s) := by
  simp only [transportMove, h]
  rfl

theorem TransferFailed.phase {e : ErrCode} {s t : State} (h : TransferFailed e s t) : t.phase = .idle := by rw [h]
theorem TransferFailed.faulted {e : ErrCode} {s t : State} (h : TransferFailed e s t) :
    t.faulted = s.faulted := by rw [h]
theorem TransferFailed.valid {e : ErrCode} {s t : State} (h : TransferFailed e s t) : t.valid = s.valid := by rw [h]
theorem TransferFailed.leds {e : ErrCode} {s t : State} (h : TransferFailed e s t) : t.leds = s.leds := by rw [h]
theorem TransferFailed.pixref {e : ErrCode} {s t : State} (h : TransferFailed e s t) : t.pixref = s.pixref := by rw [h]
theorem TransferFailed.brightness {e : ErrCode} {s t : State} (h : TransferFailed e s t) :
    t.brightness = s.brightness := by rw [h]
theorem TransferFailed.correction {e : ErrCode} {s t : State} (h : TransferFailed e s t) :
    t.correction = s.correction := by rw [h]

/-- R171: a transfer error leaves pixel memory as BUILD left it. -/
theorem TransferFailed.readPixel {e : ErrCode} {s t : State} (h : TransferFailed e s t) (ref : Handle) (i : Nat) :
    readPixel ref i t = readPixel ref i s := by
  rw [h]
  rfl

/-- R140, R171: after a transfer error a session that is not `FAULTED` is ready for its next command. -/
theorem TransferFailed.ready {e : ErrCode} {s t : State} (h : TransferFailed e s t) (hf : s.faulted = false)
    (hv : s.valid = true) : Ready t :=
  ⟨⟨h.phase, h.faulted.trans hf⟩, h.valid.trans hv⟩

/-- Settles O59: TX takes the fault and leaves the session ready, and each of the two UPDATEs adjusts what it finds in
pixel memory. -/
theorem retryAfterTransferErrorAdjustsAgain : Obligations.RetryAfterTransferErrorAdjustsAgain := by
  rintro s t u e n ⟨⟨-, halive⟩, hsession⟩ hsized hupdate hanswer htx
  obtain ⟨-, rfl⟩ := exec_update_next_iff.1 hupdate
  obtain ⟨hwait, hfaulted⟩ := runUpdate_waits hsized
  obtain ⟨⟨hvalid, -, -, hleds, hpixref, -⟩, hbright, hcorr, -⟩ := runUpdate_keeps s
  have hu : u = transportMove (runUpdate s) := by
    rw [exec_tx_of_waiting hwait] at htx
    exact (Host.Outcome.next.inj htx).symm
  have hfail : TransferFailed e (runUpdate s) u := hu ▸ transportMove_of_fault hanswer
  have hru : Ready u := hfail.ready (hfaulted.trans halive) (hvalid.trans hsession)
  have hpixel : ∀ i < s.leds.toNat, readPixel u.pixref i u = adjusted s i := by
    intro i hi
    rw [hfail.readPixel, hfail.pixref, hpixref, readPixel_runUpdate s hi]
  refine ⟨hfail, hpixel, hru, runUpdate u, exec_update_next_iff.2 ⟨hru, rfl⟩, ?_⟩
  intro i hi
  have hiu : i < u.leds.toNat := by rwa [hfail.leds, hleds]
  obtain ⟨⟨-, -, -, -, hpixref', -⟩, -⟩ := runUpdate_keeps u
  calc readPixel (runUpdate u).pixref i (runUpdate u)
      = adjusted u i := by rw [hpixref', readPixel_runUpdate u hiu]
    _ = adjust s.brightness s.correction (adjusted s i) := by
      rw [adjusted, hpixel i hi, hfail.brightness, hfail.correction, hbright, hcorr]

end Sys2Proof.Machine
end

section
/-! What FILL's loop does to the state (R141), for any range within `LEDS`, and the settlement of O44. -/

namespace Sys2Proof.Machine

/-- R140, R141: within `LEDS` only the session check can stop FILL. -/
theorem exec_fill_of_le {lo hi : Count} {s : State} (hlo : lo ≤ s.leds) (hhi : hi ≤ s.leds) (p : Pixel) :
    exec (.fill p lo hi) s = guarded (sessionStop s) (finishOk (fillPixels p lo.toNat hi.toNat s)) := by
  have hrange : ¬ (s.leds < lo ∨ s.leds < hi) := not_or.2 ⟨BitVec.not_lt.2 hlo, BitVec.not_lt.2 hhi⟩
  simp only [exec, execFill, if_neg hrange]
  cases sessionStop s <;> rfl

/-- R141: a completed FILL changes pixel memory and `RESULT` only. -/
theorem fillOnly_finishOk_fillPixels (p : Pixel) (lo hi : Nat) (s : State) :
    FillOnly s (finishOk (fillPixels p lo hi s)) := by
  rw [FillOnly, fillPixels_frame]
  rfl

/-- R141: every pixel of the range takes the colour as given. -/
theorem readPixel_fillPixels {lo hi j : Nat} (hhi : hi ≤ 65536) (hlo : lo ≤ j) (hj : j < hi) (p : Pixel) (s : State) :
    readPixel s.pixref j (fillPixels p lo hi s) = p := by
  have hchan : ∀ d, readChan s.pixref j d (fillPixels p lo hi s) = chanOf p d := fun d => by
    rw [readChan_fillPixels hhi (hj.trans_le hhi), if_pos ⟨rfl, hlo, hj⟩]
  simp only [readPixel, hchan, chanOf]

/-- R141: every cell outside the range of the session's buffer reads as before. -/
theorem pixelsKeptOutside_fillPixels {lo hi : Nat} (hhi : hi ≤ 65536) (p : Pixel) (s : State) :
    PixelsKeptOutside s.pixref lo hi s (fillPixels p lo hi s) := by
  intro h i d houtside
  rw [readChan_fillPixels hhi i.isLt, if_neg houtside]

/-- R142: FILL_ALL is FILL with the bounds 0 and `LEDS`, which are within `LEDS`, whatever the session check answers. -/
theorem exec_fillAll_eq_fill (p : Pixel) (s : State) : exec (.fillAll p) s = exec (.fill p 0#16 s.leds) s := by
  have hzero : 0#16 ≤ s.leds := Nat.zero_le _
  rw [exec_fill_of_le hzero (BitVec.le_refl s.leds)]
  rfl

/-- R140, R142: in a session FILL_ALL completes. -/
theorem exec_fillAll_of_ready {s : State} (h : Ready s) (p : Pixel) :
    exec (.fillAll p) s = .next (finishOk (fillPixels p 0 s.leds.toNat s)) := by
  simp only [exec, execFillAll, sessionStop_ready h, guarded]

/-- Settles O44: FILL at the bounds 0 and `LEDS` passes its range check, and its loop covers the session's buffer. -/
theorem fillAllIsTheFullRangeFill : Obligations.FillAllIsTheFullRangeFill := by
  intro p s
  have hleds : s.leds.toNat ≤ 65536 := s.leds.isLt.le
  refine ⟨exec_fillAll_eq_fill p s, fun hready => ⟨_, exec_fillAll_of_ready hready p, ?_, ?_, ?_⟩⟩
  · exact fillOnly_finishOk_fillPixels p 0 s.leds.toNat s
  · exact fun i hi => readPixel_fillPixels hleds (Nat.zero_le i) hi p s
  · exact pixelsKeptOutside_fillPixels hleds p s

end Sys2Proof.Machine
end

section
/-! The machine's invariant (R11, R18 to R20, R25 to R27, R33): reset meets it, each operation keeps it, and so does
every step; the settlements of O1, O2 and O3. -/

namespace Sys2Proof.Machine

/-- Settles O1: each value is reset's own, and an unlisted handle names memory of the caller's. -/
theorem resetLeavesStatedValues : Obligations.ResetLeavesStatedValues :=
  ⟨rfl, rfl, rfl, rfl, rfl, rfl, rfl, rfl, rfl, fun _ => rfl⟩

/-- Settles O2: nothing is listed in any memory, there is no session, and the block is idle. -/
theorem resetMeetsInvariant : Obligations.ResetMeetsInvariant where
  pixWf := rfl
  txbWf := rfl
  tableWf := rfl
  txbInside := fun _ he => nomatch he
  txbBytes := rfl
  noTxb := fun _ => rfl
  alive := rfl
  flight := by simp [State.reset]
  busy := fun hbusy => absurd rfl hbusy
  gap := fun hv => nomatch hv
  sized := fun hv => nomatch hv
  owned := fun hv => nomatch hv
  progress := Nat.zero_le _
  quiet := fun _ => rfl
  codeZero := fun _ => rfl

/-- R26: `CODE` is 0 but for the kinds that carry the platform's code. -/
def CodeZero (x : Result) : Prop :=
  x.kind = .ok ∨ x.kind = .allocFail ∨ x.kind = .sizeMismatch ∨ x.kind = .illegalCmd → x.code = 0#32

/-! ### Updates of fields the invariant reads little of -/

theorem sound_popPort {s : State} (h : Sound s) : Sound (popPort s) := { h with }

theorem sound_lookup {s : State} (h : Sound s) (n : Nibble) : Sound (lookup n s) := { h with }

theorem sound_brightness {s : State} (h : Sound s) (v : Byte) : Sound { s with brightness := v } := { h with }

theorem sound_correction {s : State} (h : Sound s) (en : Bool) : Sound { s with correction := en } := { h with }

theorem sound_hostByte {s : State} (h : Sound s) (v : Byte) : Sound { s with hostByte := v } := { h with }

theorem sound_callBus {s : State} (h : Sound s) (pin : Byte) : Sound (callBus pin s) := { h with }

theorem sound_callDev {s : State} (h : Sound s) : Sound (callDev s) := { h with }

theorem sound_callAlloc {s : State} (h : Sound s) (bytes : Nat) : Sound (callAlloc bytes s) := { h with }

theorem sound_takeTx {s : State} (h : Sound s) : Sound (takeTx s) := { h with }

theorem sound_finishOk {s : State} (h : Sound s) : Sound (finishOk s) := { h with codeZero := fun _ => rfl }

theorem sound_answerIllegal {s : State} (h : Sound s) : Sound (answerIllegal s) := { h with codeZero := fun _ => rfl }

theorem sound_writeChan {s : State} (h : Sound s) (ref : Handle) (i : Nat) (c : Chan) (v : Byte) :
    Sound (writeChan ref i c v s) :=
  { h with pixWf := Memory.put_wf h.pixWf _ _ }

theorem sound_fillPixels {s : State} (h : Sound s) (p : Pixel) (lo hi : Nat) : Sound (fillPixels p lo hi s) := by
  rw [fillPixels_frame]
  exact { h with pixWf := fillPixels_wf h.pixWf p lo hi }

/-- R165 (d), R194: the memory the host resizes is its own and not the session's. -/
theorem resizeStop_none {ref : Handle} {s : State} (h : resizeStop ref s = none) :
    (bufAt ref s).own ≠ .released ∧ (s.valid = true → ref ≠ s.pixref) := by
  unfold resizeStop at h
  split_ifs at h with hphase hown hsession
  exact ⟨hown, fun hv hr => hsession ⟨hv, hr⟩⟩

/-- R194: a resize of another memory leaves the session's memory the host's and long enough. -/
theorem sound_resize {s : State} (h : Sound s) {ref : Handle} (hstop : resizeStop ref s = none) (x : HostBuf) :
    Sound { setBuf ref x s with pix := s.pix.filter (fun e => !ownsKey ref e.1) } :=
  { h with
    pixWf := Memory.filter_wf h.pixWf _
    tableWf := setBuf_wf h.tableWf ref x
    owned := fun hv => by
      have hother : bufAt s.pixref (setBuf ref x s) = bufAt s.pixref s :=
        bufAt_setBuf_other s x ((resizeStop_none hstop).2 hv).symm
      have hown := h.owned hv
      unfold OwnsBuffer at hown ⊢
      rwa [← hother] at hown }

/-! ### UPDATE: BUILD and the submission -/

/-- What the stages leave is the old state with new values in the stages' own fields. -/
theorem StagesOnly.eq_update {s t : State} (h : StagesOnly s t) :
    ∃ pi wp work muxOut encOut lutOut pix txb, t = { s with
      pi := pi, wp := wp, work := work, muxOut := muxOut, encOut := encOut, lutOut := lutOut
      pix := pix, txb := txb } :=
  ⟨_, _, _, _, _, _, _, _, h⟩

/-- R116: in a session the frame BUILD writes fills TXB, which is what the wait needs. -/
theorem sound_buildFrame {s : State} (h : Sound s) (hidle : s.phase = .idle) (hv : s.valid = true) :
    Sound (buildFrame s) := by
  obtain ⟨hstages, hwp, -, -, hpix, htxb, hinside, -⟩ := buildFrame_spec s
  generalize buildFrame s = t at hstages hwp hpix htxb hinside
  obtain ⟨_, _, _, _, _, _, _, _, rfl⟩ := hstages.eq_update
  have hland : s.inFlight ≠ true := fun hf => by simpa [hidle] using h.flight.1 hf
  exact { h with
    pixWf := hpix h.pixWf
    txbWf := htxb h.txbWf
    txbInside := hinside h.txbInside
    noTxb := fun hn => absurd (hv.symm.trans hn) (by decide)
    flight := iff_of_false hland (by simp)
    busy := fun _ => ⟨hv, hwp.trans (h.sized hv).symm⟩
    quiet := fun _ => h.quiet (by simp [hidle]) }

theorem sound_submitTx {s : State} (h : Sound s) (hv : s.valid = true) (hwp : s.wp = s.wordCount) :
    Sound (submitTx s) :=
  { h with
    flight := iff_of_true rfl rfl
    busy := fun _ => ⟨hv, hwp⟩
    progress := Nat.zero_le _
    quiet := fun _ => rfl }

theorem buildFrame_phase (s : State) : (buildFrame s).phase = .building := by rw [(buildFrame_spec s).1]

/-- R147: a session meets the size invariant, so its UPDATE submits the frame. -/
theorem sound_runUpdate {s : State} (h : Sound s) (hready : Ready s) : Sound (runUpdate s) := by
  obtain ⟨⟨hidle, -⟩, hv⟩ := hready
  have hsized : Sized s := h.sized hv
  rw [runUpdate_of_sized hsized]
  have hbuilt := sound_buildFrame h hidle hv
  obtain ⟨hvalid, hwp⟩ := hbuilt.busy (by simp [buildFrame_phase])
  exact sound_submitTx hbuilt hvalid hwp

/-! ### The transport's moves -/

/-- R123: the bits put on the line are bits of the frame not yet sent, so they are no more than the transfer has. -/
theorem sound_clockOut {s : State} (h : Sound s) (hwait : s.phase = .waiting) (n : Nat) : Sound (clockOut n s) :=
  { h with
    progress := by
      have hsent : s.sent ≤ 16 * s.wordCount := h.progress
      show s.sent + (((frameBits s).drop s.sent).take n).length ≤ 16 * s.wordCount
      rw [List.length_take, List.length_drop, frameBits_length]
      omega
    quiet := fun hn => absurd hwait hn }

/-- The end of a transfer, whatever `RESULT` says of it (R27). -/
theorem sound_endTransfer {s : State} (h : Sound s) {x : Result} (hcode : CodeZero x) :
    Sound { s with result := x, inFlight := false, phase := .idle, sent := 0 } :=
  { h with
    flight := by simp
    busy := fun hn => absurd rfl hn
    progress := Nat.zero_le _
    quiet := fun _ => rfl
    codeZero := hcode }

theorem sound_transportMove {s : State} (h : Sound s) (hwait : s.phase = .waiting) : Sound (transportMove s) := by
  have hclock : ∀ n, Sound (clockOut n (takeTx s)) := sound_clockOut (sound_takeTx h) hwait
  unfold transportMove
  cases txAnswer s with
  | clock n => exact hclock n
  | done => exact sound_endTransfer (hclock _) fun _ => rfl
  | fault e n => exact sound_endTransfer (x := ⟨.transferError, e⟩) (hclock n) (by simp [CodeZero])

/-! ### INIT -/

/-- An INIT fault (R170): without a session, `RESULT` is written, the block is idle and a pixel memory is released. -/
theorem sound_releasePix {s : State} (h : Sound s) (hv : s.valid = false) (hidle : s.phase = .idle) {x : Result}
    (hcode : CodeZero x) (ref : Handle) :
    Sound (releasePix ref { s with result := x, phase := .idle, valid := false }) := by
  have hs : { s with result := x, phase := .idle, valid := false } = { s with result := x } := by rw [← hidle, ← hv]
  rw [hs, releasePix_frame]
  have hnone : s.valid ≠ true := by simp [hv]
  exact { h with
    tableWf := releasePix_wf (s := { s with result := x }) h.tableWf ref
    owned := fun hn => absurd hn hnone
    codeZero := hcode }

/-- INIT's writes on success (R131) make a session that meets the invariant. -/
theorem sound_openSession {s : State} (h : Sound s) (hidle : s.phase = .idle) {leds : Count} {ref : Handle}
    (howns : OwnsBuffer ref leds s) (pin : Byte) (m : Model) : Sound (openSession pin m leds ref s) :=
  { h with
    txbWf := rfl
    txbInside := fun _ he => nomatch he
    txbBytes := rfl
    noTxb := fun hn => nomatch hn
    busy := fun hn => absurd hidle hn
    gap := fun _ => rfl
    sized := fun _ => rfl
    owned := fun _ => howns
    progress := (h.quiet (by simp [hidle])).le.trans (Nat.zero_le _)
    codeZero := fun _ => rfl }

theorem sound_initEffect {pin : Byte} {m : Model} {leds : Count} {ref : Handle} {s t : State} (h : Sound s)
    (hidle : s.phase = .idle) (hv : s.valid = false) (howns : OwnsBuffer ref leds s)
    (heffect : InitEffect pin m leds ref s t) : Sound t := by
  have hbus := sound_callBus h pin
  have hdev := sound_callDev hbus
  have halloc := sound_callAlloc hdev (2 * wordCountOf leds (gapOf m))
  cases heffect with
  | bus e => exact sound_releasePix (x := ⟨.busRegFail, e⟩) hbus hv hidle (by simp [CodeZero]) ref
  | dev e => exact sound_releasePix (x := ⟨.devRegFail, e⟩) hdev hv hidle (by simp [CodeZero]) ref
  | alloc => exact sound_releasePix (x := ⟨.allocFail, 0#32⟩) halloc hv hidle (fun _ => rfl) ref
  | opened => exact sound_openSession halloc hidle howns pin m

/-! ### Every step -/

theorem sound_hostEffect {m : HostMove} {s t : State} (h : Sound s) (hidle : s.phase = .idle)
    (heffect : HostEffect s m t) : Sound t := by
  cases heffect with
  | init _ _ _ _ _ _ _ _ hv howns hinit => exact sound_initEffect h hidle hv howns hinit
  | fill _ p lo hi => exact sound_finishOk (sound_fillPixels h p lo hi)
  | level _ v => exact sound_finishOk (sound_brightness h v)
  | correction _ en => exact sound_finishOk (sound_correction h en)
  | update _ _ hready => exact sound_runUpdate h hready
  | lookup _ n => exact sound_lookup h n
  | illegal => exact sound_answerIllegal h
  | store ref i c v => exact sound_writeChan h ref i.toNat c v
  | load ref i c => exact sound_hostByte h (readChan ref i.toNat c s)
  | resize ref len hstop => exact sound_resize h hstop _

/-- Settles O3: each of the four things a step can be keeps the invariant. -/
theorem stepKeepsInvariant : Obligations.StepKeepsInvariant := by
  intro s t h hstep
  obtain ⟨-, -, rfl⟩ | ⟨hidle, m, rest, -, heffect⟩ | ⟨-, -, hv, hwp, rfl⟩ | ⟨hwait, rfl⟩ := step_next hstep
  · exact h
  · exact sound_hostEffect (sound_popPort h) hidle heffect
  · exact sound_submitTx h hv hwp
  · exact sound_transportMove h hwait

end Sys2Proof.Machine
end

section
/-! The command layout (R69 to R76): the opcode and the zero fields of a word decide what it decodes to, and the
operands are its slices; the settlements of O4 to O9. -/

namespace Sys2Proof

/-! ### What a word decodes to, by its fields -/

/-- The opcode column (R69). -/
def opcodeOf (w : Command) : Byte := w.extractLsb' 56 8

theorem opcodeOf_eq (w : Command) : w.extractLsb' 56 8 = opcodeOf w := rfl

theorem decodeCommand_of_init {w : Command} (ho : opcodeOf w = 1#8) (hz : w.extractLsb' 41 7 = 0#7) :
    decodeCommand w =
      .init (w.extractLsb' 48 8) (modelOfByte (w.extractLsb' 40 8)) (w.extractLsb' 24 16) (w.extractLsb' 0 24) := by
  simp [decodeCommand, opcodeOf_eq, hits_init, ho, hz]

theorem decodeCommand_of_fill {w : Command} (ho : opcodeOf w = 2#8) :
    decodeCommand w = .fill (colorOf w) (w.extractLsb' 16 16) (w.extractLsb' 0 16) := by
  simp [decodeCommand, opcodeOf_eq, hits_init, hits_fill, ho]

theorem decodeCommand_of_fillAll {w : Command} (ho : opcodeOf w = 3#8) (hz : w.extractLsb' 0 32 = 0#32) :
    decodeCommand w = .fillAll (colorOf w) := by
  simp [decodeCommand, opcodeOf_eq, hits_init, hits_fill, hits_fillAll, ho, hz]

theorem decodeCommand_of_setBrightness {w : Command} (ho : opcodeOf w = 4#8) (hz : w.extractLsb' 0 48 = 0#48) :
    decodeCommand w = .setBrightness (w.extractLsb' 48 8) := by
  simp [decodeCommand, opcodeOf_eq, hits_init, hits_fill, hits_fillAll, hits_setBrightness, ho, hz]

theorem decodeCommand_of_setColorCorrection {w : Command} (ho : opcodeOf w = 5#8) (hh : w.extractLsb' 49 7 = 0#7)
    (hz : w.extractLsb' 0 48 = 0#48) : decodeCommand w = .setColorCorrection (w.getLsbD 48) := by
  simp [decodeCommand, opcodeOf_eq, hits_init, hits_fill, hits_fillAll, hits_setBrightness, hits_setColorCorrection, ho, hh,
    hz]

theorem decodeCommand_of_update {w : Command} (ho : opcodeOf w = 6#8) (hz : w.extractLsb' 0 56 = 0#56) :
    decodeCommand w = .update := by
  simp [decodeCommand, opcodeOf_eq, hits_init, hits_fill, hits_fillAll, hits_setBrightness, hits_setColorCorrection,
    hits_update, ho, hz]

/-! ### The reserved words -/

/-- R74: a `MODEL` code is legal exactly when its seven upper bits are zero. -/
theorem modelCode_le_one_iff (w : Command) : (w.extractLsb' 40 8).toNat ≤ 1 ↔ w.extractLsb' 41 7 = 0#7 := by
  rw [BitVec.toNat_eq]
  simp only [BitVec.extractLsb'_toNat, BitVec.toNat_ofNat, Nat.shiftRight_eq_div_pow]
  omega

/-- What a command word is, by its fields: one of the six rows of R70, or reserved. -/
inductive WordForm (w : Command) : Prop where
  | init (ho : opcodeOf w = 1#8) (hz : w.extractLsb' 41 7 = 0#7)
  | fill (ho : opcodeOf w = 2#8)
  | fillAll (ho : opcodeOf w = 3#8) (hz : w.extractLsb' 0 32 = 0#32)
  | setBrightness (ho : opcodeOf w = 4#8) (hz : w.extractLsb' 0 48 = 0#48)
  | setColorCorrection (ho : opcodeOf w = 5#8) (hh : w.extractLsb' 49 7 = 0#7) (hz : w.extractLsb' 0 48 = 0#48)
  | update (ho : opcodeOf w = 6#8) (hz : w.extractLsb' 0 56 = 0#56)
  | reserved (hr : reservedWord w = true)

theorem wordForm (w : Command) : WordForm w := by
  by_cases hr : reservedWord w = true
  · exact .reserved hr
  · have hopc : ∀ k : Byte, (w.extractLsb' 56 8).toNat = k.toNat → opcodeOf w = k := fun k => BitVec.eq_of_toNat_eq
    unfold reservedWord at hr
    split at hr
    next ho => exact .init (hopc 1#8 ho) ((modelCode_le_one_iff w).1 (by simpa using hr))
    next ho => exact .fill (hopc 2#8 ho)
    next ho => exact .fillAll (hopc 3#8 ho) (by simpa using hr)
    next ho => exact .setBrightness (hopc 4#8 ho) (by simpa using hr)
    next ho =>
      obtain ⟨hh, hz⟩ : w.extractLsb' 49 7 = 0#7 ∧ w.extractLsb' 0 48 = 0#48 := by simpa using hr
      exact .setColorCorrection (hopc 5#8 ho) hh hz
    next ho => exact .update (hopc 6#8 ho) (by simpa using hr)
    next => exact absurd rfl hr

/-- R74 to R76: a reserved word matches no row. -/
theorem decodeCommand_of_reserved {w : Command} (h : reservedWord w = true) : decodeCommand w = .illegalCmd w := by
  unfold reservedWord at h
  simp only [decodeCommand, hits_init, hits_fill, hits_fillAll, hits_setBrightness, hits_setColorCorrection,
    hits_update, ← modelCode_le_one_iff]
  split_ifs with hinit hfill hfillAll hlevel hcorr hupdate
  · rw [hinit.1] at h
    exact absurd (of_decide_eq_true (p := 1 < (w.extractLsb' 40 8).toNat) h) hinit.2.not_gt
  · simp [hfill] at h
  · simp [hfillAll] at h
  · simp [hlevel] at h
  · simp [hcorr] at h
  · simp [hupdate] at h
  · rfl

/-- Settles O7: a word that is not reserved has one of the six forms, and none of them decodes to an illegal command. -/
theorem reservedWordsAreIllegal : Obligations.ReservedWordsAreIllegal := by
  intro w
  refine ⟨fun hillegal => ?_, decodeCommand_of_reserved⟩
  cases wordForm w with
  | init ho hz => simp [decodeCommand_of_init ho hz] at hillegal
  | fill ho => simp [decodeCommand_of_fill ho] at hillegal
  | fillAll ho hz => simp [decodeCommand_of_fillAll ho hz] at hillegal
  | setBrightness ho hz => simp [decodeCommand_of_setBrightness ho hz] at hillegal
  | setColorCorrection ho hh hz => simp [decodeCommand_of_setColorCorrection ho hh hz] at hillegal
  | update ho hz => simp [decodeCommand_of_update ho hz] at hillegal
  | reserved hr => exact hr

/-! ### No two rows match one word -/

/-- R70: a word that a row matches has the row's opcode. -/
theorem opcodeOf_of_hits {w : Command} : ∀ row ∈ opRows, row.hits w = true → opcodeOf row.pattern = opcodeOf w := by
  simp only [opRows, List.forall_mem_cons, hits_init, hits_fill, hits_fillAll, hits_setBrightness,
    hits_setColorCorrection, hits_update]
  refine ⟨?_, ?_, ?_, ?_, ?_, ?_, List.forall_mem_nil _⟩
  · exact fun h => h.1.symm
  · exact fun h => h.symm
  · exact fun h => h.1.symm
  · exact fun h => h.1.symm
  · exact fun h => h.1.symm
  · exact fun h => h.1.symm

/-- Settles O6: the rows that match a word have its opcode, and the six rows' opcodes are all different. -/
theorem commandRowsAreDisjoint : Obligations.CommandRowsAreDisjoint := by
  intro w
  have hnodup : (opRows.map fun row => opcodeOf row.pattern).Nodup := by decide
  calc (opRows.filter fun row => row.hits w).length
      = opRows.countP fun row => row.hits w := List.countP_eq_length_filter.symm
    _ ≤ opRows.countP fun row => opcodeOf row.pattern == opcodeOf w :=
        List.countP_mono_left fun row hrow hhits => beq_iff_eq.2 (opcodeOf_of_hits row hrow hhits)
    _ = (opRows.map fun row => opcodeOf row.pattern).count (opcodeOf w) := by rw [List.count, List.countP_map]; rfl
    _ ≤ 1 := List.nodup_iff_count_le_one.1 hnodup _

/-! ### The operands of a written word -/

/-- A field of a written word, read off its operands bit by bit. -/
theorem commandWord_slice {o : Byte} {x : BitVec 56} {a n : Nat} {y : BitVec n} (h : a + n ≤ 56)
    (hbit : ∀ i < n, x.getLsbD (a + i) = y.getLsbD i) : (commandWord o x).extractLsb' a n = y := by
  rw [commandWord_low o x a n h]
  apply BitVec.eq_of_getLsbD_eq
  intro i hi
  simp only [BitVec.getLsbD_extractLsb', hi, decide_true, Bool.true_and, hbit]

/-- R74: a model's code has no bit but bit 0. -/
theorem byteOfModel_upper (m : Model) {i : Nat} (hi : i < 7) : (byteOfModel m).getLsbD (1 + i) = false := by
  cases m <;> interval_cases i <;> rfl

theorem modelOfByte_byteOfModel (m : Model) : modelOfByte (byteOfModel m) = m := by cases m <;> rfl

theorem decodeCommand_initWord (pin : Byte) (m : Model) (leds : Count) (ref : Handle) :
    decodeCommand (commandWord 1#8 (pin ++ byteOfModel m ++ leds ++ ref)) = .init pin m leds ref := by
  have hz : (commandWord 1#8 (pin ++ byteOfModel m ++ leds ++ ref)).extractLsb' 41 7 = 0#7 :=
    commandWord_slice (by decide) fun i hi => by
      rw [initOperands_bit]
      simp (disch := omega) only [if_neg, if_pos, BitVec.getLsbD_zero, ← byteOfModel_upper m hi]
      congr 1
      omega
  rw [decodeCommand_of_init (commandWord_opc _ _) hz,
    commandWord_slice (a := 48) (y := pin) (by decide), commandWord_slice (a := 40) (y := byteOfModel m) (by decide),
    commandWord_slice (a := 24) (y := leds) (by decide), commandWord_slice (a := 0) (y := ref) (by decide),
    modelOfByte_byteOfModel]
  all_goals
    intro i hi
    rw [initOperands_bit]
    simp (disch := omega) only [if_neg, if_pos, Nat.add_sub_cancel_left, Nat.zero_add]

/-- The colour columns of a word that carries a colour above 32 operand bits. -/
theorem colorOf_commandWord {o : Byte} {x : BitVec 56} {c : Pixel}
    (hbit : ∀ i < 24, x.getLsbD (32 + i) = (colorBits c).getLsbD i) : colorOf (commandWord o x) = c := by
  have hchan : ∀ {a : Nat} {v : Byte}, a + 8 ≤ 24 → (∀ i < 8, (colorBits c).getLsbD (a + i) = v.getLsbD i) →
      (commandWord o x).extractLsb' (32 + a) 8 = v := fun ha hv =>
    commandWord_slice (by omega) fun i hi => by rw [Nat.add_assoc, hbit _ (by omega), hv i hi]
  rw [colorOf, hchan (a := 16) (v := c.r) (by decide), hchan (a := 8) (v := c.g) (by decide),
    hchan (a := 0) (v := c.b) (by decide)]
  all_goals
    intro i hi
    rw [colorBits_bit]
    simp (disch := omega) only [if_neg, if_pos, Nat.add_sub_cancel_left, Nat.zero_add]

theorem decodeCommand_fillWord (c : Pixel) (lo hi : Count) :
    decodeCommand (commandWord 2#8 (colorBits c ++ lo ++ hi)) = .fill c lo hi := by
  rw [decodeCommand_of_fill (commandWord_opc _ _), colorOf_commandWord (c := c),
    commandWord_slice (a := 16) (y := lo) (by decide), commandWord_slice (a := 0) (y := hi) (by decide)]
  all_goals
    intro i hi
    rw [fillOperands_bit]
    simp (disch := omega) only [if_neg, if_pos, Nat.add_sub_cancel_left, Nat.zero_add]

theorem decodeCommand_fillAllWord (c : Pixel) :
    decodeCommand (commandWord 3#8 (colorBits c ++ 0#32)) = .fillAll c := by
  rw [decodeCommand_of_fillAll (commandWord_opc _ _), colorOf_commandWord (c := c)]
  · intro i hi
    rw [fillAllOperands_bit]
    simp (disch := omega) only [if_neg, Nat.add_sub_cancel_left]
  · refine commandWord_slice (by decide) fun i hi => ?_
    rw [fillAllOperands_bit, if_pos (by omega), BitVec.getLsbD_zero]

theorem decodeCommand_levelWord (v : Byte) : decodeCommand (commandWord 4#8 (v ++ 0#48)) = .setBrightness v := by
  rw [decodeCommand_of_setBrightness (commandWord_opc _ _), commandWord_slice (a := 48) (y := v) (by decide)]
  · intro i hi
    rw [levelOperands_bit, if_neg (by omega), Nat.add_sub_cancel_left]
  · refine commandWord_slice (by decide) fun i hi => ?_
    rw [levelOperands_bit, if_pos (by omega), BitVec.getLsbD_zero]

theorem decodeCommand_correctionWord (en : Bool) :
    decodeCommand (commandWord 5#8 (0#7 ++ BitVec.ofBool en ++ 0#48)) = .setColorCorrection en := by
  cases en <;> rfl

theorem decodeCommand_updateWord : decodeCommand (commandWord 6#8 0#56) = .update := rfl

/-- Settles O4: each command's fields are the slices its row reads, a reserved word matches no row, and each table
address names its row of TABLE. -/
theorem decodeUndoesEncode : Obligations.DecodeUndoesEncode := by
  intro i src hwf henc
  cases i <;> cases henc
  case init pin m leds ref => exact decodeCommand_initWord pin m leds ref
  case fill c lo hi => exact decodeCommand_fillWord c lo hi
  case fillAll c => exact decodeCommand_fillAllWord c
  case setBrightness v => exact decodeCommand_levelWord v
  case setColorCorrection en => exact decodeCommand_correctionWord en
  case update => exact decodeCommand_updateWord
  case illegalCmd w => exact decodeCommand_of_reserved hwf
  all_goals rfl

/-! ### The word of a decoded operation -/

/-- A written word is `w` when it has `w`'s opcode and `w`'s operand bits. -/
theorem commandWord_eq {w : Command} {o : Byte} {x : BitVec 56} (ho : opcodeOf w = o)
    (hbit : ∀ i < 56, x.getLsbD i = w.getLsbD i) : commandWord o x = w := by
  have hx : x = w.extractLsb' 0 56 := by
    apply BitVec.eq_of_getLsbD_eq
    intro i hi
    simp only [BitVec.getLsbD_extractLsb', hi, decide_true, Bool.true_and, Nat.zero_add, hbit]
  rw [← ho, hx]
  exact commandWord_eta w

/-- A bit of a field that is zero. -/
theorem getLsbD_of_zeroField {w : Command} {a n i : Nat} (hz : w.extractLsb' a n = 0#n) (hlo : a ≤ i)
    (hhi : i < a + n) : w.getLsbD i = false := by
  have hbit := congrArg (fun x => x.getLsbD (i - a)) hz
  simpa [show i - a < n by omega, Nat.add_sub_cancel' hlo] using hbit

/-- A bit of a field, by its place in the word. -/
theorem getLsbD_field {w : Command} {a n i : Nat} (hlo : a ≤ i) (hhi : i < a + n) :
    (w.extractLsb' a n).getLsbD (i - a) = w.getLsbD i := by
  simp [show i - a < n by omega, Nat.add_sub_cancel' hlo]

/-- R74: a legal `MODEL` code is the code of the model it names. -/
theorem byteOfModel_modelOfByte {c : Byte} (h : c.toNat ≤ 1) : byteOfModel (modelOfByte c) = c := by
  obtain rfl | rfl : c = 0#8 ∨ c = 1#8 := by
    rw [BitVec.toNat_eq, BitVec.toNat_eq]
    simp only [BitVec.toNat_ofNat]
    omega
  · rfl
  · rfl

/-- The colour columns hold the word's bits 32 to 55. -/
theorem colorBits_colorOf (w : Command) {i : Nat} (hlo : 32 ≤ i) (hhi : i < 56) :
    (colorBits (colorOf w)).getLsbD (i - 32) = w.getLsbD i := by
  rw [colorBits_bit]
  split_ifs with hb hg
  · exact getLsbD_field hlo (by omega)
  · rw [show i - 32 - 8 = i - 40 by omega]
    exact getLsbD_field (by omega) (by omega)
  · rw [show i - 32 - 16 = i - 48 by omega]
    exact getLsbD_field (by omega) (by omega)

theorem encode_decodeCommand (w : Command) : encode (decodeCommand w) = some (.command w) := by
  cases wordForm w with
  | init ho hz =>
    rw [decodeCommand_of_init ho hz, encode, byteOfModel_modelOfByte ((modelCode_le_one_iff w).2 hz)]
    refine congrArg (some ∘ Source.command) (commandWord_eq ho fun i hi => ?_)
    rw [initOperands_bit]
    split_ifs
    · exact getLsbD_field (a := 0) (Nat.zero_le _) (by omega)
    · exact getLsbD_field (by omega) (by omega)
    · exact getLsbD_field (by omega) (by omega)
    · exact getLsbD_field (by omega) (by omega)
  | fill ho =>
    rw [decodeCommand_of_fill ho, encode]
    refine congrArg (some ∘ Source.command) (commandWord_eq ho fun i hi => ?_)
    rw [fillOperands_bit]
    split_ifs
    · exact getLsbD_field (a := 0) (Nat.zero_le _) (by omega)
    · exact getLsbD_field (by omega) (by omega)
    · exact colorBits_colorOf w (by omega) hi
  | fillAll ho hz =>
    rw [decodeCommand_of_fillAll ho hz, encode]
    refine congrArg (some ∘ Source.command) (commandWord_eq ho fun i hi => ?_)
    rw [fillAllOperands_bit]
    split_ifs
    · exact (getLsbD_of_zeroField hz (Nat.zero_le _) (by omega)).symm
    · exact colorBits_colorOf w (by omega) hi
  | setBrightness ho hz =>
    rw [decodeCommand_of_setBrightness ho hz, encode]
    refine congrArg (some ∘ Source.command) (commandWord_eq ho fun i hi => ?_)
    rw [levelOperands_bit]
    split_ifs
    · exact (getLsbD_of_zeroField hz (Nat.zero_le _) (by omega)).symm
    · exact getLsbD_field (by omega) (by omega)
  | setColorCorrection ho hh hz =>
    rw [decodeCommand_of_setColorCorrection ho hh hz, encode]
    refine congrArg (some ∘ Source.command) (commandWord_eq ho fun i hi => ?_)
    rw [enOperands_bit]
    obtain hlow | rfl | hhigh : i < 48 ∨ i = 48 ∨ 49 ≤ i := by omega
    · simp [getLsbD_of_zeroField hz (Nat.zero_le i) (by omega), show i ≠ 48 by omega]
    · simp
    · simp [getLsbD_of_zeroField hh hhigh (by omega), show i ≠ 48 by omega]
  | update ho hz =>
    rw [decodeCommand_of_update ho hz, encode]
    refine congrArg (some ∘ Source.command) (commandWord_eq ho fun i hi => ?_)
    rw [BitVec.getLsbD_zero, getLsbD_of_zeroField hz (Nat.zero_le i) (by omega)]
  | reserved hr => rw [decodeCommand_of_reserved hr, encode]

theorem decodeCommand_wf (w : Command) : (decodeCommand w).wf = true := by
  cases wordForm w with
  | init ho hz => rw [decodeCommand_of_init ho hz]; rfl
  | fill ho => rw [decodeCommand_of_fill ho]; rfl
  | fillAll ho hz => rw [decodeCommand_of_fillAll ho hz]; rfl
  | setBrightness ho hz => rw [decodeCommand_of_setBrightness ho hz]; rfl
  | setColorCorrection ho hh hz => rw [decodeCommand_of_setColorCorrection ho hh hz]; rfl
  | update ho hz => rw [decodeCommand_of_update ho hz]; rfl
  | reserved hr => rw [decodeCommand_of_reserved hr]; exact hr

theorem encode_decodeNibble : ∀ n : Nibble,
    encode (decodeNibble n) = some (.tableAddr n) ∧ (decodeNibble n).wf = true := by decide

/-- Settles O5: a word is its opcode, its operand slices and its zero fields, and a nibble is one of sixteen. -/
theorem encodeUndoesDecode : Obligations.EncodeUndoesDecode := by
  intro src
  cases src with
  | command w => exact ⟨encode_decodeCommand w, decodeCommand_wf w⟩
  | tableAddr n => exact encode_decodeNibble n

/-- Settles O8: each word is evaluated. -/
theorem writtenWordsDecode : Obligations.WrittenWordsDecode := by
  unfold Obligations.WrittenWordsDecode
  decide

/-- The result word as a number: `KIND` above the 32 bits of `CODE` (R72). -/
theorem result_word_toNat (x : Machine.Result) : x.word.toNat = x.kind.toBits.toNat * 2 ^ 32 + x.code.toNat := by
  rw [Machine.Result.word, BitVec.toNat_append, ← Nat.shiftLeft_add_eq_or_of_lt x.code.isLt, Nat.shiftLeft_eq]

/-- Settles O9: the kinds' codes are 0 to 5 and 7. -/
theorem resultWordHasTheListedCodes : Obligations.ResultWordHasTheListedCodes := by
  intro code
  simp [result_word_toNat, Machine.ResultKind.toBits]

end Sys2Proof
end

section
/-! The configuration functions of PRE (R91 to R94): the laws of SCALE and of the correction curves, and that nothing
but the laws is fixed; the settlements of O18, O19, O20 and O60. -/

namespace Sys2Proof.Machine

/-! ### SCALE -/

/-- Law L2: off the exact multiples of 255 SCALE is the truncated quotient. -/
theorem scaleBy_of_not_dvd {c b : Byte} (h : ¬ 255 ∣ c.toNat * b.toNat) (low : Byte → Byte → Bool) :
    (scaleBy low c b).toNat = c.toNat * b.toNat / 255 := by
  have hfixed : scaleFree c b = false := by
    rw [← Bool.not_eq_true]
    exact fun hfree => h (scaleFree_dvd hfree).1
  simp [scaleBy_toNat, hfixed]

/-- Law L3: SCALE is the quotient, or one less where the quotient is exact and not 0. -/
theorem scaleBy_cases (low : Byte → Byte → Bool) (c b : Byte) :
    (scaleBy low c b).toNat = c.toNat * b.toNat / 255 ∨ (scaleBy low c b).toNat + 1 = c.toNat * b.toNat / 255 := by
  rw [scaleBy_toNat]
  split_ifs with hlow
  · obtain ⟨-, hge⟩ := scaleFree_dvd (Bool.and_eq_true_iff.1 hlow).1
    right
    omega
  · exact .inl (Nat.sub_zero _)

/-- SCALE is at most the quotient. -/
theorem scaleBy_le_quotient (low : Byte → Byte → Bool) (c b : Byte) :
    (scaleBy low c b).toNat ≤ c.toNat * b.toNat / 255 := by
  rw [scaleBy_toNat]
  exact Nat.sub_le _ _

/-- Law L1, at level 0. -/
@[simp] theorem scaleBy_level_zero (low : Byte → Byte → Bool) (c : Byte) : scaleBy low c 0#8 = 0#8 := by
  have hle := scaleBy_le_quotient low c 0#8
  exact BitVec.eq_of_toNat_eq (by simpa using hle)

/-- Law L1, on channel 0. -/
theorem scaleBy_channel_zero (low : Byte → Byte → Bool) (b : Byte) : scaleBy low 0#8 b = 0#8 := by
  have hle := scaleBy_le_quotient low 0#8 b
  exact BitVec.eq_of_toNat_eq (by simpa using hle)

/-- Law L4: SCALE never brightens. -/
theorem scaleBy_le (low : Byte → Byte → Bool) (c b : Byte) : scaleBy low c b ≤ c := by
  have hquotient : c.toNat * b.toNat / 255 ≤ c.toNat :=
    Nat.div_le_of_le_mul (by rw [Nat.mul_comm 255]; exact Nat.mul_le_mul_left _ (by omega))
  exact (scaleBy_le_quotient low c b).trans hquotient

/-- Law L5: SCALE at level 255 is the channel. -/
theorem scaleBy_full (low : Byte → Byte → Bool) (c : Byte) : scaleBy low c 255#8 = c :=
  BitVec.eq_of_toNat_eq (by simp [scaleBy_toNat])

/-- Settles O18: the laws hold of every choice of SCALE's open part. -/
theorem scaleMeetsItsLaws : Obligations.ScaleMeetsItsLaws :=
  ⟨scaleBy_level_zero _, scaleBy_channel_zero _, fun _ _ h => scaleBy_of_not_dvd h _, fun c b _ => scaleBy_cases _ c b,
    scaleBy_le _, scaleBy_full _⟩

/-- The choices that make SCALE a given function: one below wherever the function is below the quotient. -/
def lowOf (f : Byte → Byte → Byte) (c b : Byte) : Bool := decide ((f c b).toNat ≠ c.toNat * b.toNat / 255)

/-- R92: a function between the quotient and one below it, where L3 allows that, is SCALE with its own choices. -/
theorem scaleBy_lowOf {f : Byte → Byte → Byte}
    (hquotient : ∀ c b, ¬ 255 ∣ c.toNat * b.toNat → (f c b).toNat = c.toNat * b.toNat / 255)
    (hexact : ∀ c b, 255 ∣ c.toNat * b.toNat →
      (f c b).toNat = c.toNat * b.toNat / 255 ∨ (f c b).toNat + 1 = c.toNat * b.toNat / 255)
    (hfull : ∀ c, f c 255#8 = c) (c b : Byte) : scaleBy (lowOf f) c b = f c b := by
  apply BitVec.eq_of_toNat_eq
  by_cases heq : (f c b).toNat = c.toNat * b.toNat / 255
  · simp [scaleBy_toNat, lowOf, heq]
  · have hdvd : 255 ∣ c.toNat * b.toNat := by
      by_contra hn
      exact heq (hquotient c b hn)
    have hbelow : (f c b).toNat + 1 = c.toNat * b.toNat / 255 := (hexact c b hdvd).resolve_left heq
    have hlevel : b ≠ 255#8 := by
      rintro rfl
      refine heq ?_
      rw [hfull]
      simp
    have hfree : scaleFree c b = true := by
      simp only [scaleFree, Bool.and_eq_true, beq_iff_eq, bne_iff_ne]
      exact ⟨⟨Nat.mod_eq_zero_of_dvd hdvd, fun hzero => by simp [hzero] at hbelow⟩, hlevel⟩
    simp [scaleBy_toNat, lowOf, hfree, ← hbelow]

/-! ### The correction curves -/

/-- Law C2: a curve never brightens. -/
theorem curveBy_le (p : Byte → Byte) (v : Byte) : curveBy p v ≤ v := by
  rw [BitVec.le_def, curveBy_toNat]
  exact curveMax_le p v.toNat

/-- Law C1: a curve keeps 0. -/
@[simp] theorem curveBy_zero (p : Byte → Byte) : curveBy p 0#8 = 0#8 :=
  BitVec.eq_of_toNat_eq (Nat.le_zero.1 (curveBy_le p 0#8))

/-- Law C3: a curve is non-decreasing. -/
theorem curveBy_mono (p : Byte → Byte) {x y : Byte} (h : x ≤ y) : curveBy p x ≤ curveBy p y := by
  rw [BitVec.le_def, curveBy_toNat, curveBy_toNat]
  exact curveMax_mono p h

/-- Settles O19: the laws hold of the curve through any points. -/
theorem correctionMeetsItsLaws : Obligations.CorrectionMeetsItsLaws :=
  ⟨curveBy_zero _, curveBy_zero _, curveBy_le _, curveBy_le _, fun _ _ => curveBy_mono _, fun _ _ => curveBy_mono _⟩

/-- R93: a function that meets C2 and C3 is the curve through its own points. -/
theorem curveBy_of_lawful {f : Byte → Byte} (hle : ∀ v, f v ≤ v) (hmono : ∀ x y, x ≤ y → f x ≤ f y) (v : Byte) :
    curveBy f v = f v := by
  have hval : ∀ k ≤ v.toNat, (BitVec.ofNat 8 k).toNat = k := fun k hk => by
    rw [BitVec.toNat_ofNat, Nat.mod_eq_of_lt (by omega)]
  apply BitVec.eq_of_toNat_eq
  rw [curveBy_toNat, curveMax_of_lawful (f := fun k => (f (BitVec.ofNat 8 k)).toNat) (fun _ _ => rfl)]
  · rw [BitVec.ofNat_toNat, BitVec.setWidth_eq]
  · intro k hk
    exact (BitVec.le_def.1 (hle (BitVec.ofNat 8 k))).trans (hval k hk).le
  · intro k hk
    refine hmono _ _ (BitVec.le_def.2 ?_)
    rw [hval k hk.le, hval (k + 1) hk]
    exact Nat.le_succ k

/-- Settles O60: a lawful scaling function chooses low exactly where it is below the quotient, a lawful curve goes
through its own points, and the defaults are lawful. -/
theorem configurationFunctionsAreBoundByLawsOnly : Obligations.ConfigurationFunctionsAreBoundByLawsOnly := by
  refine ⟨?_, ?_, ⟨fun _ _ => false, fun c b => by rw [scaleBy_default]⟩, ?_, ?_⟩
  · exact fun f _ _ hquotient hexact _ hfull => ⟨lowOf f, scaleBy_lowOf hquotient hexact hfull⟩
  · exact fun f _ hle hmono => curveBy_of_lawful hle hmono
  · exact congrFun curveBy_default.1
  · exact congrFun curveBy_default.2

/-! ### PRE's two stages -/

@[simp] theorem brightStage_full (sc : Byte → Byte → Byte) (p : Pixel) : brightStage sc 255#8 p = p := if_pos rfl

theorem brightStage_of_ne {level : Byte} (h : level ≠ 255#8) (sc : Byte → Byte → Byte) (p : Pixel) :
    brightStage sc level p = ⟨sc p.r level, sc p.g level, sc p.b level⟩ := if_neg h

@[simp] theorem corrStage_off (cg cb : Byte → Byte) (p : Pixel) : corrStage cg cb false p = p := rfl

@[simp] theorem corrStage_on (cg cb : Byte → Byte) (p : Pixel) : corrStage cg cb true p = ⟨p.r, cg p.g, cb p.b⟩ := rfl

/-- R94: brightness first, then correction. -/
theorem adjust_eq (level : Byte) (on : Bool) (p : Pixel) :
    adjust level on p = corrStage corrG corrB on (brightStage scale level p) := rfl

/-- Settles O20: each stage is on or off, and 255 turns the first one off. -/
theorem brightnessComesBeforeCorrection : Obligations.BrightnessComesBeforeCorrection := by
  intro level r g b
  refine ⟨?_, ?_, fun h => ?_, fun h => ?_⟩
  · rw [adjust_eq, brightStage_full, corrStage_off]
  · rw [adjust_eq, brightStage_full, corrStage_on]
  · rw [adjust_eq, brightStage_of_ne h, corrStage_off]
  · rw [adjust_eq, brightStage_of_ne h, corrStage_on]

/-- R96 (b): at level 0 every channel is 0, whatever the correction. -/
theorem adjust_level_zero (on : Bool) (p : Pixel) : adjust 0#8 on p = ⟨0#8, 0#8, 0#8⟩ := by
  rw [adjust_eq, brightStage_of_ne (by decide)]
  cases on <;> simp [scale, corrG, corrB]

/-- Laws L4 and C2: no channel grows. -/
theorem chanOf_adjust_le (level : Byte) (on : Bool) (p : Pixel) (c : Chan) :
    chanOf (adjust level on p) c ≤ chanOf p c := by
  have hbright : ∀ d, chanOf (brightStage scale level p) d ≤ chanOf p d := by
    intro d
    unfold brightStage
    split_ifs
    · exact BitVec.le_refl _
    · cases d <;> exact scaleBy_le _ _ _
  have hcorr : ∀ q, chanOf (corrStage corrG corrB on q) c ≤ chanOf q c := by
    intro q
    cases on with
    | false => exact BitVec.le_refl _
    | true =>
      cases c with
      | r => exact BitVec.le_refl _
      | g => exact curveBy_le _ _
      | b => exact curveBy_le _ _
  exact BitVec.le_trans (hcorr _) (hbright c)

end Sys2Proof.Machine
end

section
/-! What a step runs (R49, R69, R192), and the stages that keep to their latches (R105, R106); the settlements of O10,
O11, O12 and O17. -/

namespace Sys2Proof.Machine

/-- R69: an idle block decodes the source that stands first and runs it, the list of inputs advanced. -/
theorem step_of_fetch {s : State} {src : Source} {rest : List HostMove} (hidle : s.phase = .idle)
    (hport : s.port = .fetch src :: rest) : step s = exec (decode src) { s with port := rest } := by
  simp only [step, hidle, hport, runMove, popPort, List.tail_cons]

/-- An opcode-table word is read as its source is decoded. -/
theorem decode_of_decodeTableWord {nbits w : Nat} {i : Instr} (h : decodeTableWord nbits w = some i) :
    decode (tableSource nbits w) = i :=
  Option.some.inj (Option.ite_none_right_eq_some.1 h).2

/-- Settles O10: both clauses are the step of an idle block with a source first on its list. -/
theorem stepRunsTheDecodedOperation : Obligations.StepRunsTheDecodedOperation := by
  refine ⟨fun s src rest hidle hport => step_of_fetch hidle hport, fun s nbits w i hword => ?_⟩
  rw [step_of_fetch (src := tableSource nbits w) (rest := s.port) rfl rfl, decode_of_decodeTableWord hword]
  rfl

/-- Settles O11: the step's three phases. -/
theorem stepWaitsOrRunsTx : Obligations.StepWaitsOrRunsTx := by
  refine ⟨fun s hidle hport => ?_, fun s hbusy => ?_⟩
  · simp only [step, hidle, hport]
  · cases hphase : s.phase with
    | idle => exact absurd hphase hbusy
    | building => simp only [step, hphase]
    | waiting => simp only [step, hphase]

/-- Settles O12: each row is one lookup of its nibble. -/
theorem tableRowsGiveTheirWords : Obligations.TableRowsGiveTheirWords := by
  intro s
  exact ⟨rfl, rfl, rfl, rfl, rfl, rfl, rfl, rfl, rfl, rfl, rfl, rfl, rfl, rfl, rfl, rfl⟩

/-- R106: in a session MUX writes its latch only. -/
theorem exec_mux_of_valid {s : State} (hv : s.valid = true) (p : Pixel) :
    exec (.mux p) s = .next { s with muxOut := muxOrder s.model p } := by
  simp only [exec, execMux, hv, if_true, muxStage]

/-- Settles O17: MUX's latch takes the order of the session's model. -/
theorem muxOrdersTheChannels : Obligations.MuxOrdersTheChannels := by
  refine fun p s => ⟨fun hv hm => ?_, fun hv hm => ?_, fun hv => ?_⟩
  · rw [exec_mux_of_valid hv, hm, muxOrder]
  · rw [exec_mux_of_valid hv, hm, muxOrder]
  · simp [exec, execMux, hv]

end Sys2Proof.Machine
end

section
/-! Admission (R137, R140, R145, R165): what each check answers, in its order, and which operation asks which check; the
settlements of O22, O26, O41, O43, O45 to O48, O50 and O51. -/

namespace Sys2Proof.Machine

/-! ### What the checks answer -/

theorem guarded_some {stop : Option Refusal} {r : Refusal} (h : stop = some r) (t : State) :
    guarded stop t = .refused r := by rw [h, guarded]

theorem guarded_none {stop : Option Refusal} (h : stop = none) (t : State) : guarded stop t = .next t := by
  rw [h, guarded]

theorem commandStop_of_idle {s : State} (h : s.phase = .idle) : commandStop s = none := if_pos h

theorem commandStop_of_busy {s : State} (h : s.phase ≠ .idle) : commandStop s = some .commandBusy := if_neg h

theorem legalStop_of_busy {s : State} (h : s.phase ≠ .idle) : legalStop s = some .commandBusy := if_neg h

theorem legalStop_of_faulted {s : State} (hidle : s.phase = .idle) (hf : s.faulted = true) :
    legalStop s = some .blockFaulted := by
  rw [legalStop, if_pos hidle, if_pos hf]

theorem sessionStop_of_legalStop {s : State} {r : Refusal} (h : legalStop s = some r) : sessionStop s = some r := by
  rw [sessionStop, h]

theorem sessionStop_of_invalid {s : State} (h : Open s) (hv : s.valid = false) : sessionStop s = some .noSession := by
  simp [sessionStop, legalStop_open h, hv]

theorem stageStop_of_waiting {s : State} (h : s.phase = .waiting) : stageStop s = some .commandBusy := if_pos h

theorem stageStop_of_faulted {s : State} (hp : s.phase ≠ .waiting) (hf : s.faulted = true) :
    stageStop s = some .blockFaulted := by
  rw [stageStop, if_neg hp, if_pos hf]

theorem stageStop_of_invalid {s : State} (hp : s.phase ≠ .waiting) (hf : s.faulted = false) (hv : s.valid = false) :
    stageStop s = some .noSession := by
  simp [stageStop, hp, hf, hv]

theorem initStop_of_legalStop {s : State} {r : Refusal} (h : legalStop s = some r) (leds : Count) (ref : Handle) :
    initStop leds ref s = some r := by
  rw [initStop, h]

/-- R137 (a), (b), (d): what stops INIT in an open block. -/
theorem initStop_of_open {s : State} (h : Open s) (leds : Count) (ref : Handle) :
    initStop leds ref s =
      if s.valid then some .sessionValid
      else if (bufAt ref s).own = .released then some .pixReleased
      else if (bufAt ref s).len < leds then some .pixBufferShort
      else none := by
  rw [initStop, legalStop_open h]

/-! ### PRE -/

theorem exec_pre_of_stageStop {s : State} {r : Refusal} (h : stageStop s = some r) (i : Count) :
    exec (.pre i) s = .refused r := by
  simp only [exec, execPre, h]

/-- R90: where the stages can run, PRE asks whether the pixel is one of the session's. -/
theorem exec_pre_of_ready {s : State} (h : StageReady s) (i : Count) :
    exec (.pre i) s = if i < s.leds then .next (preStage i.toNat s) else .refused .pixIndex := by
  simp only [exec, execPre, stageStop_ready h]

/-- Settles O22: the index is checked after the stages' own check. -/
theorem preRefusedOutsideTheBuffer : Obligations.PreRefusedOutsideTheBuffer := by
  refine fun i s => ⟨fun hready hi => ?_, fun hp => ?_, fun hp hf => ?_, fun hp hf hv => ?_⟩
  · rw [exec_pre_of_ready hready, if_neg (BitVec.not_lt.2 hi)]
  · exact exec_pre_of_stageStop (stageStop_of_waiting hp) i
  · exact exec_pre_of_stageStop (stageStop_of_faulted hp hf) i
  · exact exec_pre_of_stageStop (stageStop_of_invalid hp hf hv) i

/-! ### UPDATE, FILL and FILL_ALL -/

theorem exec_update_of_sessionStop {s : State} {r : Refusal} (h : sessionStop s = some r) :
    exec .update s = .refused r := guarded_some h _

theorem exec_fillAll_of_sessionStop {s : State} {r : Refusal} (h : sessionStop s = some r) (p : Pixel) :
    exec (.fillAll p) s = .refused r := guarded_some h _

theorem exec_fill_of_sessionStop {s : State} {r : Refusal} (h : sessionStop s = some r) (p : Pixel) (lo hi : Count) :
    exec (.fill p lo hi) s = .refused r := by
  simp only [exec, execFill, h]

/-- Settles O26: the three commands ask the one session check, which asks for an idle block, then for no fault, then for
a session. -/
theorem sessionCommandsRefused : Obligations.SessionCommandsRefused := by
  intro i s hi
  have hrefused : ∀ {r}, sessionStop s = some r → exec i s = .refused r := by
    intro r hstop
    obtain rfl | ⟨p, lo, hi, rfl⟩ | ⟨p, rfl⟩ := hi
    · exact exec_update_of_sessionStop hstop
    · exact exec_fill_of_sessionStop hstop p lo hi
    · exact exec_fillAll_of_sessionStop hstop p
  refine ⟨fun hbusy => ?_, fun hidle hf => ?_, fun hopen hv => ?_⟩
  · exact hrefused (sessionStop_of_legalStop (legalStop_of_busy hbusy))
  · exact hrefused (sessionStop_of_legalStop (legalStop_of_faulted hidle hf))
  · exact hrefused (sessionStop_of_invalid hopen hv)

/-- Settles O43: past the session check FILL compares both indices with `LEDS`. -/
theorem fillRefusedBeyondLeds : Obligations.FillRefusedBeyondLeds := by
  intro p lo hi s hready hbeyond
  simp only [exec, execFill, sessionStop_ready hready, if_pos hbeyond]

/-! ### INIT -/

/-- Settles O41: INIT's checks in their order. -/
theorem initRefusals : Obligations.InitRefusals := by
  intro pin m leds ref s
  have hrefused : ∀ {r}, initStop leds ref s = some r → exec (.init pin m leds ref) s = .refused r :=
    fun hstop => guarded_some hstop _
  refine ⟨fun hbusy => ?_, fun hidle hf => ?_, fun hopen hv => ?_, fun hopen hv hown => ?_,
    fun hopen hv hown hshort => ?_⟩
  · exact hrefused (initStop_of_legalStop (legalStop_of_busy hbusy) leds ref)
  · exact hrefused (initStop_of_legalStop (legalStop_of_faulted hidle hf) leds ref)
  · exact hrefused (by rw [initStop_of_open hopen, if_pos hv])
  · exact hrefused (by simp [initStop_of_open hopen, hv, hown])
  · exact hrefused (by simp [initStop_of_open hopen, hv, hown, hshort])

/-! ### The settings and the illegal command -/

/-- Settles O45: an open block admits the command, which writes its level and `RESULT`. -/
theorem setBrightnessWritesTheLevel : Obligations.SetBrightnessWritesTheLevel :=
  fun _ _ hopen => guarded_none (legalStop_open hopen) _

/-- Settles O46: an open block admits the command, which writes its flag and `RESULT`. -/
theorem setColorCorrectionWritesTheFlag : Obligations.SetColorCorrectionWritesTheFlag :=
  fun _ _ hopen => guarded_none (legalStop_open hopen) _

/-- Settles O47: both commands ask the check of every legal command. -/
theorem settingsCommandsRefused : Obligations.SettingsCommandsRefused := by
  intro i s hi
  have hrefused : ∀ {r}, legalStop s = some r → exec i s = .refused r := by
    intro r hstop
    obtain ⟨level, rfl⟩ | ⟨en, rfl⟩ := hi
    · exact guarded_some hstop _
    · exact guarded_some hstop _
  exact ⟨fun hbusy => hrefused (legalStop_of_busy hbusy), fun hidle hf => hrefused (legalStop_of_faulted hidle hf)⟩

/-- Settles O48: an illegal word asks only whether the port is free. -/
theorem illegalCommandWritesResultOnly : Obligations.IllegalCommandWritesResultOnly :=
  fun _ _ => ⟨fun hidle => guarded_none (commandStop_of_idle hidle) _,
    fun hbusy => guarded_some (commandStop_of_busy hbusy) _⟩

/-! ### The host's accesses -/

/-- R165 (d), (f), (g): the host's check, once the block is idle. -/
theorem hostStop_of_idle {s : State} (hidle : s.phase = .idle) (ref : Handle) (i : Count) :
    hostStop ref i s =
      if (bufAt ref s).own = .released then some .pixReleased
      else if s.valid ∧ ref = s.pixref ∧ s.leds ≤ i then some .pixIndex
      else if (bufAt ref s).len ≤ i then some .pixIndex
      else none := by
  rw [hostStop, if_neg (not_not.2 hidle)]

/-- Settles O50: the store and the load ask one check. -/
theorem hostAccessRefusals : Obligations.HostAccessRefusals := by
  intro ref i c v s r hcase
  have hstop : hostStop ref i s = some r := by
    obtain ⟨hbusy, rfl⟩ | ⟨hidle, hown, rfl⟩ | ⟨hidle, hown, hbound, rfl⟩ := hcase
    · exact if_pos hbusy
    · rw [hostStop_of_idle hidle, if_pos hown]
    · rw [hostStop_of_idle hidle, if_neg (by simp [hown])]
      split_ifs with hsession hlen
      · rfl
      · rfl
      · exact absurd hbound (not_or.2 ⟨hsession, hlen⟩)
  exact ⟨guarded_some hstop _, guarded_some hstop _⟩

/-- R165 (d), (h): the check of the host's resize, once the block is idle. -/
theorem resizeStop_of_idle {s : State} (hidle : s.phase = .idle) (ref : Handle) :
    resizeStop ref s =
      if (bufAt ref s).own = .released then some .pixReleased
      else if s.valid ∧ ref = s.pixref then some .pixBufferMoved
      else none := by
  rw [resizeStop, if_neg (not_not.2 hidle)]

/-- Settles O51: the resize is checked for released memory, then for the session's. -/
theorem sessionBufferStaysInPlace : Obligations.SessionBufferStaysInPlace := by
  refine fun ref len s hidle => ⟨fun hown => ?_, fun hown hv href => ?_⟩
  · exact guarded_some (by rw [resizeStop_of_idle hidle, if_pos hown]) _
  · exact guarded_some (by rw [resizeStop_of_idle hidle, if_neg (by simp [hown]), if_pos ⟨hv, href⟩]) _

end Sys2Proof.Machine
end

section
/-! PRE on one pixel, and the step that BUILD and UPDATE take (R90, R95, R110, R116, R147); the settlements of O21,
O23, O24 and O25. -/

namespace Sys2Proof.Machine

/-! ### PRE -/

@[simp] theorem chanOf_readPixel (ref : Handle) (i : Nat) (s : State) (c : Chan) :
    chanOf (readPixel ref i s) c = readChan ref i c s := by
  cases c <;> rfl

/-- A pixel is its three channels. -/
theorem readPixel_of_readChan {ref : Handle} {i : Nat} {s : State} {p : Pixel}
    (h : ∀ c, readChan ref i c s = chanOf p c) : readPixel ref i s = p := by
  simp only [readPixel, h, chanOf]

/-- R10, R95: PRE writes pixel memory and the working values only. -/
theorem preStage_eq (i : Nat) (s : State) :
    preStage i s = { s with pix := (preStage i s).pix, work := adjusted s i } := by
  unfold preStage
  split_ifs <;> rfl

/-- Settles O21: PRE's write-back is the pixel's three channels, and none when both stages are off. -/
theorem preAdjustsOnePixelInPlace : Obligations.PreAdjustsOnePixelInPlace := by
  intro i s hready hi
  have hread : ∀ (h : Handle) (j : Count) (d : Chan), readChan h j.toNat d (preStage i.toNat s) =
      if h = s.pixref ∧ j.toNat = i.toNat then chanOf (adjusted s i.toNat) d else readChan h j.toNat d s :=
    fun h j d => readChan_preStage i.isLt j.isLt h d s
  refine ⟨preStage i.toNat s, ?_, preStage_eq i.toNat s, ?_, ?_, fun hoff => preStage_off hoff i.toNat⟩
  · rw [exec_pre_of_ready hready, if_pos hi]
  · exact readPixel_of_readChan fun d => by rw [hread s.pixref i d, if_pos ⟨rfl, rfl⟩]
  · intro h j d houtside
    rw [hread, if_neg]
    rintro ⟨rfl, hj⟩
    exact houtside ⟨rfl, hj.ge, by omega⟩

/-! ### BUILD and UPDATE -/

theorem exec_build_of_ready {s : State} (h : StageReady s) : exec .build s = .next (runBuild s) :=
  guarded_none (stageStop_ready h) _

theorem runBuild_of_sized {s : State} (h : Sized s) : runBuild s = buildFrame s := if_pos ((sizeOk_iff s).2 h)

theorem runBuild_of_not_sized {s : State} (h : ¬ Sized s) : runBuild s = raise .sizeMismatch (buildFrame s) :=
  if_neg ((sizeOk_iff s).not.2 h)

theorem runUpdate_of_not_sized {s : State} (h : ¬ Sized s) : runUpdate s = raise .sizeMismatch (buildFrame s) :=
  if_neg ((sizeOk_iff s).not.2 h)

/-- R147: an admitted UPDATE of a session that meets the size invariant builds and submits. -/
theorem exec_update_of_sized {s : State} (hready : Ready s) (hsized : Sized s) :
    exec .update s = .next (submitTx (buildFrame s)) := by
  rw [exec_update_next_iff.2 ⟨hready, rfl⟩, runUpdate_of_sized hsized]

/-- R116: BUILD leaves `WP` at the number of words it counted. -/
theorem buildFrame_wp (s : State) : (buildFrame s).wp = wordCountOf s.leds s.resetGap := (buildFrame_spec s).2.1

theorem buildFrame_wp_of_sized {s : State} (h : Sized s) : (buildFrame s).wp = s.wordCount :=
  (buildFrame_wp s).trans h.symm

/-- The submission writes nothing that the stages write. -/
theorem StagesOnly.submit {s t : State} (h : StagesOnly s t) : StagesOnly (submitTx s) (submitTx t) := by
  obtain ⟨_, _, _, _, _, _, _, _, rfl⟩ := h.eq_update
  rfl

/-- R172: nor does the size mismatch. -/
theorem StagesOnly.sizeMismatch {s t : State} (h : StagesOnly s t) :
    StagesOnly (raise .sizeMismatch s) (raise .sizeMismatch t) := by
  obtain ⟨_, _, _, _, _, _, _, _, rfl⟩ := h.eq_update
  rfl

/-- Settles O23: BUILD passes its size check and leaves the frame it built. -/
theorem buildWritesTheFrame : Obligations.BuildWritesTheFrame := by
  intro s hready hsized
  obtain ⟨hstages, -⟩ := buildFrame_spec s
  refine ⟨buildFrame s, ?_, buildFrame_frameOf hsized, buildFrame_pixels s, buildFrame_wp_of_sized hsized, hstages⟩
  rw [exec_build_of_ready hready, runBuild_of_sized hsized]

/-- Settles O24: the submission leaves TXB and pixel memory as BUILD left them. -/
theorem updateBuildsThenSubmits : Obligations.UpdateBuildsThenSubmits := by
  intro s hready hsized
  obtain ⟨hstages, -⟩ := buildFrame_spec s
  exact ⟨submitTx (buildFrame s), exec_update_of_sized hready hsized, { buildFrame_frameOf hsized with },
    { buildFrame_pixels s with }, buildFrame_wp_of_sized hsized, hstages.submit⟩

/-- Settles O25: BUILD and UPDATE both end with the size mismatch after the whole frame is built. -/
theorem sizeMismatchIsFatal : Obligations.SizeMismatchIsFatal := by
  intro s hsized
  obtain ⟨hstages, -⟩ := buildFrame_spec s
  have hpixels : PixelsAdjusted s (raise .sizeMismatch (buildFrame s)) := { buildFrame_pixels s with }
  refine ⟨fun hready => ⟨raise .sizeMismatch (buildFrame s), ?_, buildFrame_wp s, hpixels, hstages.sizeMismatch⟩,
    fun hready => ⟨raise .sizeMismatch (buildFrame s), ?_, buildFrame_wp s, hpixels, hstages.sizeMismatch⟩⟩
  · rw [exec_build_of_ready hready, runBuild_of_not_sized hsized]
  · rw [exec_update_next_iff.2 ⟨hready, rfl⟩, runUpdate_of_not_sized hsized]

end Sys2Proof.Machine
end

section
/-! What an UPDATE makes of pixel memory and of TXB (R78, R96, R107, R149), read off its frame; the settlements of O27
to O31. -/

namespace Sys2Proof.Machine

/-! ### Pixel memory -/

/-- Settles O27: with both stages off no turn of the pixel loop writes. -/
theorem updateKeepsPixelsWhenPreIsOff : Obligations.UpdateKeepsPixelsWhenPreIsOff := by
  intro s hready hsized hoff
  obtain ⟨-, -, -, -, -, -, -, hpix⟩ := buildFrame_spec s
  exact ⟨submitTx (buildFrame s), exec_update_of_sized hready hsized, hpix hoff, fun i _ => adjusted_off hoff i⟩

/-- R95: an UPDATE's channels are the adjusted ones. -/
theorem PixelsAdjusted.readChan {s t : State} (h : PixelsAdjusted s t) {i : Nat} (hi : i < s.leds.toNat) (c : Chan) :
    readChan s.pixref i c t = chanOf (adjusted s i) c := by
  rw [← h.inside i hi, chanOf_readPixel]

/-- Settles O29: each channel of the session is adjusted once, and adjusting never brightens. -/
theorem updateNeverBrightens : Obligations.UpdateNeverBrightens := by
  intro s hready hsized
  refine ⟨submitTx (buildFrame s), exec_update_of_sized hready hsized, fun i hi c => ?_⟩
  calc readChan s.pixref i c (buildFrame s)
      = chanOf (adjusted s i) c := (buildFrame_pixels s).readChan hi c
    _ ≤ chanOf (readPixel s.pixref i s) c := chanOf_adjust_le _ _ _ _
    _ = readChan s.pixref i c s := chanOf_readPixel _ _ _ _

/-! ### The words of the frame -/

/-- R66, R67: word `k` of a frame, between the guard and the gap, is one nibble's of some byte sent. -/
theorem FrameOf.pixelWord {s t : State} (h : FrameOf s t) {k : Nat} (hlo : 1 ≤ k) (hhi : k ≤ 6 * s.leds.toNat) :
    ∃ i < s.leds.toNat, ∃ p < 3, readTxb k t = table (hiNibble (sentByte s i p)) ∨
      readTxb k t = table (loNibble (sentByte s i p)) := by
  have hi : (k - 1) / 6 < s.leds.toNat := by omega
  have hp : (k - 1) % 6 / 2 < 3 := by omega
  refine ⟨(k - 1) / 6, hi, (k - 1) % 6 / 2, hp, ?_⟩
  obtain heven | hodd : (k - 1) % 2 = 0 ∨ (k - 1) % 2 = 1 := by omega
  · left
    rw [← h.highWord _ hi _ hp]
    congr 1
    omega
  · right
    rw [← h.lowWord _ hi _ hp]
    congr 1
    omega

/-- R66: the guard and the gap are zero words. -/
theorem FrameOf.zeroWord {s t : State} (h : FrameOf s t) (hsized : Sized s) {k : Nat} (hk : k < s.wordCount)
    (hzero : k = 0 ∨ 6 * s.leds.toNat < k) : readTxb k t = 0#16 := by
  obtain rfl | hgap := hzero
  · exact h.guardWord
  · have hlen : s.wordCount = 1 + 6 * s.leds.toNat + s.resetGap := hsized
    rw [← h.gapWords (k - (1 + 6 * s.leds.toNat)) (by omega)]
    congr 1
    omega

/-- R96 (b): at brightness 0 every pixel is adjusted to black. -/
theorem adjusted_of_brightness_zero {s : State} (h : s.brightness = 0#8) (i : Nat) :
    adjusted s i = ⟨0#8, 0#8, 0#8⟩ := by
  rw [adjusted, h, adjust_level_zero]

theorem muxOrder_const (m : Model) (v : Byte) : muxOrder m ⟨v, v, v⟩ = ⟨v, v, v⟩ := by cases m <;> rfl

theorem Triple.at_const (v : Byte) (p : Nat) : (⟨v, v, v⟩ : Triple).at p = v := by
  unfold Triple.at
  split <;> rfl

/-- R96 (b): so every byte sent is 0. -/
theorem sentByte_of_brightness_zero {s : State} (h : s.brightness = 0#8) (i p : Nat) : sentByte s i p = 0#8 := by
  rw [sentByte, adjusted_of_brightness_zero h, muxOrder_const, Triple.at_const]

/-- Settles O28: every adjusted pixel is black, and both nibbles of a zero byte are `TABLE[0]`. -/
theorem brightnessZeroSendsTableZero : Obligations.BrightnessZeroSendsTableZero := by
  intro s hready hsized hzero
  refine ⟨submitTx (buildFrame s), exec_update_of_sized hready hsized, fun k hlo hhi => ?_, fun i hi => ?_⟩
  · obtain ⟨i, -, p, -, hword | hword⟩ := (buildFrame_frameOf hsized).pixelWord hlo hhi
    · exact hword.trans (by rw [sentByte_of_brightness_zero hzero]; rfl)
    · exact hword.trans (by rw [sentByte_of_brightness_zero hzero]; rfl)
  · exact ((buildFrame_pixels s).inside i hi).trans (adjusted_of_brightness_zero hzero i)

/-- R62: a byte is its high nibble over its low nibble. -/
theorem hiNibble_append_loNibble (v : Byte) : hiNibble v ++ loNibble v = v :=
  (BitVec.extractLsb'_append_extractLsb'_eq_extractLsb' (rfl : 4 = 0 + 4)).trans BitVec.extractLsb'_eq_self

/-- Settles O30: DEC reads back the nibbles of the byte sent, which MUX takes from the pixel as it now stands. -/
theorem frameDecodesToThePixels : Obligations.FrameDecodesToThePixels := by
  intro s hready hsized
  have hframe := buildFrame_frameOf hsized
  refine ⟨submitTx (buildFrame s), exec_update_of_sized hready hsized, fun i hi p hp =>
    ⟨hiNibble (sentByte s i p), loNibble (sentByte s i p), ?_, ?_, ?_⟩⟩
  · exact (congrArg dec (hframe.highWord i hi p hp)).trans (dec_table _)
  · exact (congrArg dec (hframe.lowWord i hi p hp)).trans (dec_table _)
  · have hpixel : readPixel s.pixref i (submitTx (buildFrame s)) = adjusted s i := (buildFrame_pixels s).inside i hi
    rw [hpixel, hiNibble_append_loNibble, sentByte]

/-- Settles O31: the guard and the gap are zero, every other word is a table word, and no table word is zero. -/
theorem frameHoldsZeroAndTableWords : Obligations.FrameHoldsZeroAndTableWords := by
  intro s hready hsized
  have hframe := buildFrame_frameOf hsized
  refine ⟨submitTx (buildFrame s), exec_update_of_sized hready hsized, fun k hk => ?_⟩
  show (readTxb k (buildFrame s) = 0#16 ↔ _) ∧
    (readTxb k (buildFrame s) ≠ 0#16 → ∃ n, readTxb k (buildFrame s) = table n)
  by_cases hzero : k = 0 ∨ 6 * s.leds.toNat < k
  · have hword := hframe.zeroWord hsized hk hzero
    exact ⟨iff_of_true hword hzero, fun hne => absurd hword hne⟩
  · obtain ⟨n, hword⟩ : ∃ n, readTxb k (buildFrame s) = table n := by
      obtain ⟨i, -, p, -, hword | hword⟩ := hframe.pixelWord (k := k) (by omega) (by omega)
      · exact ⟨_, hword⟩
      · exact ⟨_, hword⟩
    exact ⟨iff_of_false (by rw [hword]; exact table_ne_zero n) hzero, fun _ => ⟨n, hword⟩⟩

end Sys2Proof.Machine
end

section
/-! TX (R120 to R125): the submission, the bits of a transfer, its two ends and a whole transfer; the settlements of
O32 to O37. -/

namespace Sys2Proof.Machine

/-! ### The submission -/

/-- R120, R122: after BUILD the buffer is submitted where it is complete, and TX is refused where it is not. -/
theorem exec_tx_of_building {s : State} (hready : StageReady s) (h : s.phase = .building) :
    exec .tx s = if s.wp = s.wordCount then .next (submitTx s) else .refused .txNoFrame := by
  simp only [exec, execTx, h, stageStop_ready hready, sizeOk, beq_iff_eq]

/-- Settles O32: the buffer is complete. -/
theorem txSubmitsTheWholeBuffer : Obligations.TxSubmitsTheWholeBuffer := by
  intro s hready hphase hwp
  rw [exec_tx_of_building hready hphase, if_pos hwp]
  rfl

/-- Settles O33: an idle block has no buffer to submit, and a build of the wrong size leaves an incomplete one. -/
theorem txRefusedWithoutAFrame : Obligations.TxRefusedWithoutAFrame := by
  refine fun s => ⟨fun hidle => ?_, fun hready hphase hwp => ?_⟩
  · simp only [exec, execTx, hidle]
  · rw [exec_tx_of_building hready hphase, if_neg hwp]

/-! ### The bits of a transfer -/

/-- R42: words laid one after the other, each as its 16 bits, bit 0 first. -/
theorem wordBits_flatMap_getElem? (f : Nat → Word) {n p : Nat} (hp : p < 16 * n) :
    ((List.range n).flatMap fun k => wordBits (f k))[p]? = some ((f (p / 16)).getLsbD (p % 16)) := by
  induction n with
  | zero => omega
  | succ n ih =>
    have hlen : ((List.range n).flatMap fun k => wordBits (f k)).length = 16 * n := by
      simp [List.length_flatMap, wordBits_length, Nat.mul_comm]
    rw [List.range_succ, List.flatMap_append, List.flatMap_singleton]
    by_cases hlast : p < 16 * n
    · rw [List.getElem?_append_left (hlen.symm ▸ hlast), ih hlast]
    · obtain ⟨hdiv, hmod⟩ : p / 16 = n ∧ p % 16 = p - 16 * n := by omega
      rw [List.getElem?_append_right (by omega), hlen, wordBits_get _ (by omega), hdiv, hmod]

/-- Settles O34: the frame's bits are its words, one after the other. -/
theorem transferIsAllBitsOfTxb : Obligations.TransferIsAllBitsOfTxb :=
  fun s => ⟨frameBits_length s, fun _ hp => wordBits_flatMap_getElem? (fun k => readTxb k s) hp⟩

/-! ### The ends of a transfer -/

/-- Taking an answer leaves the frame. -/
@[simp] theorem frameBits_takeTx (s : State) : frameBits (takeTx s) = frameBits s := frameBits_congr rfl rfl

/-- R123: the answer `done` puts all that is left of the frame on the line. -/
theorem transportMove_of_done {s : State} (h : txAnswer s = .done) :
    transportMove s = { s with
      line := s.line ++ (frameBits s).drop s.sent, result := ⟨.ok, 0#32⟩, inFlight := false, phase := .idle, sent := 0
      plat := (takeTx s).plat } := by
  have hline : (clockOut (transferBits s) (takeTx s)).line = s.line ++ (frameBits s).drop s.sent := by
    rw [clockOut_line, frameBits_takeTx, takeTx_line, takeTx_sent, List.take_of_length_le]
    rw [List.length_drop, frameBits_length]
    exact Nat.sub_le _ _
  simp only [transportMove, h, ← hline]
  rfl

/-- Settles O35: the transport's answer `done`, in the wait. -/
theorem txDoneEndsUpdate : Obligations.TxDoneEndsUpdate := by
  intro s hwait _ hanswer
  rw [exec_tx_of_waiting hwait, transportMove_of_done hanswer]
  rfl

/-- Settles O36: the bits that a fault leaves on the line are the first ones not yet sent. -/
theorem txFaultIsSurfaced : Obligations.TxFaultIsSurfaced := by
  intro s e n hwait hanswer
  refine ⟨((frameBits s).drop s.sent).take n, List.take_prefix _ _, ?_⟩
  rw [exec_tx_of_waiting hwait]
  simp only [transportMove, hanswer]
  rfl

/-! ### A whole transfer -/

/-- The line once the rest of the frame is on it. -/
def wholeLine (s : State) : List Bool := s.line ++ (frameBits s).drop s.sent

/-- R123: bits put on the line are taken from the rest of the frame, so the two together stay what they are. -/
theorem wholeLine_clockOut (n : Nat) (s : State) : wholeLine (clockOut n s) = wholeLine s := by
  have hframe : frameBits (clockOut n s) = frameBits s := frameBits_congr rfl rfl
  have hrest := List.prefix_iff_eq_append.1 (List.take_prefix n ((frameBits s).drop s.sent))
  rw [List.drop_drop] at hrest
  rw [wholeLine, hframe, clockOut_line, List.append_assoc]
  exact congrArg (s.line ++ ·) hrest

theorem wholeLine_takeTx (s : State) : wholeLine (takeTx s) = wholeLine s := by
  rw [wholeLine, frameBits_takeTx, wholeLine, takeTx_line, takeTx_sent]

/-- R123, R124: whatever moves the transport makes before `done`, the run ends with the whole of the line. -/
theorem run_transfer (ns : List Nat) (more : List TxAnswer) (s : State) (hwait : s.phase = .waiting)
    (htx : s.plat.tx = clocks ns ++ TxAnswer.done :: more) :
    ∃ t, core.run (ns.length + 1) s = .next t ∧ t.line = wholeLine s ∧ t.result = ⟨.ok, 0#32⟩ ∧
      t.phase = .idle ∧ t.inFlight = false ∧ t.txb = s.txb ∧ t.pix = s.pix ∧ t.valid = s.valid := by
  induction ns generalizing s with
  | nil =>
    have hmove := transportMove_of_done (txAnswer_of_cons htx)
    refine ⟨transportMove s, run_succ_of_step core 0 (step_of_waiting hwait), ?_⟩
    rw [hmove]
    exact ⟨rfl, rfl, rfl, rfl, rfl, rfl, rfl⟩
  | cons n ns ih =>
    have hmove : transportMove s = clockOut n (takeTx s) := transportMove_of_clock (txAnswer_of_cons htx)
    have hstep : step s = .next (clockOut n (takeTx s)) := by rw [step_of_waiting hwait, hmove]
    obtain ⟨t, hrun, hline, hend⟩ := ih (clockOut n (takeTx s)) hwait (congrArg List.tail htx)
    rw [wholeLine_clockOut, wholeLine_takeTx] at hline
    exact ⟨t, (run_succ_of_step core _ hstep).trans hrun, hline, hend⟩

/-- Settles O37: at the submission nothing of the frame is on the line yet. -/
theorem transferPutsTheFrameOnTheLine : Obligations.TransferPutsTheFrameOnTheLine := by
  intro ns more s hwait hsent htx
  have hwhole : wholeLine s = s.line ++ frameBits s := by rw [wholeLine, hsent, List.drop_zero]
  rw [← hwhole]
  exact run_transfer ns more s hwait htx

end Sys2Proof.Machine
end

section
/-! INIT's four ends (R130 to R134, R160 to R162, R170), FILL (R141), and the host's store and load (R150, R151); the
settlements of O39, O40, O42 and O49. -/

namespace Sys2Proof.Machine

/-! ### INIT -/

theorem exec_init_of_admitted {leds : Count} {ref : Handle} {s : State} (hopen : Open s) (hv : s.valid = false)
    (howns : OwnsBuffer ref leds s) (pin : Byte) (m : Model) :
    exec (.init pin m leds ref) s = .next (initSession pin m leds ref s) :=
  guarded_none (initStop_admits hopen hv howns) _

/-- R134: the bus registration fails first. -/
theorem initSession_of_busFail {s : State} {e : ErrCode} (hbus : busAnswer s = .fail e) (pin : Byte) (m : Model)
    (leds : Count) (ref : Handle) :
    initSession pin m leds ref s = raise (.busRegFail ref e) (callBus pin s) := by
  simp only [initSession, hbus]

/-- R134: then the device registration. -/
theorem initSession_of_devFail {pin : Byte} {s : State} {e : ErrCode} (hbus : busAnswer s = .ok)
    (hdev : devAnswer (callBus pin s) = .fail e) (m : Model) (leds : Count) (ref : Handle) :
    initSession pin m leds ref s = raise (.devRegFail ref e) (callDev (callBus pin s)) := by
  simp only [initSession, hbus, hdev]

/-- R133: then the allocation. -/
theorem initSession_of_allocFail {pin : Byte} {s : State} (hbus : busAnswer s = .ok)
    (hdev : devAnswer (callBus pin s) = .ok) (halloc : allocAnswer (callDev (callBus pin s)) = .fail) (m : Model)
    (leds : Count) (ref : Handle) :
    initSession pin m leds ref s =
      raise (.allocFail ref) (callAlloc (2 * wordCountOf leds (gapOf m)) (callDev (callBus pin s))) := by
  simp only [initSession, hbus, hdev, halloc]

/-- R131: three answers `ok` open the session. -/
theorem initSession_of_ok {pin : Byte} {s : State} (hbus : busAnswer s = .ok)
    (hdev : devAnswer (callBus pin s) = .ok) (halloc : allocAnswer (callDev (callBus pin s)) = .ok) (m : Model)
    (leds : Count) (ref : Handle) :
    initSession pin m leds ref s =
      openSession pin m leds ref (callAlloc (2 * wordCountOf leds (gapOf m)) (callDev (callBus pin s))) := by
  simp only [initSession, hbus, hdev, halloc]

/-- Settles O39: the session opened after the three calls. -/
theorem initOpensASession : Obligations.InitOpensASession := by
  intro pin m leds ref s hopen hv howns hbus hdev halloc
  refine ⟨_, exec_init_of_admitted hopen hv howns pin m, ?_⟩
  rw [initSession_of_ok hbus hdev halloc]
  refine ⟨rfl, rfl, rfl, ?_, rfl⟩
  exact (List.append_assoc _ _ _).trans (List.append_assoc _ _ _)

/-- R160 to R162, R170: what an INIT fault leaves after calls that made `u` of `s`, with the result `x`. -/
theorem initFault_effect {s u : State} (hidle : s.phase = .idle) (hv : s.valid = false)
    (hcalls : u = { s with calls := u.calls, plat := u.plat }) (ref : Handle) (x : Result) :
    let t := releasePix ref { u with result := x, phase := .idle, valid := false }
    t.result = x ∧ t.calls = u.calls ∧ (bufAt ref t).own = .released ∧ (∀ h, h ≠ ref → bufAt h t = bufAt h s) ∧
      t = { s with result := t.result, calls := t.calls, bufs := t.bufs, plat := t.plat } := by
  intro t
  refine ⟨rfl, rfl, ?_, fun h hne => ?_, ?_⟩
  · rw [bufAt_releasePix, if_pos rfl]
  · rw [bufAt_releasePix, if_neg hne, hcalls]
    rfl
  · have hframe : t = { u with result := x, phase := .idle, valid := false, bufs := t.bufs } := releasePix_frame ref _
    rw [hframe, hcalls, ← hidle, ← hv]

/-- Settles O40: the calls made before the failing answer, then one fault. -/
theorem initFaultsReleaseTheBuffer : Obligations.InitFaultsReleaseTheBuffer := by
  intro pin m leds ref s hopen hv howns
  have hexec := exec_init_of_admitted hopen hv howns pin m
  refine ⟨fun e hbus => ?_, fun e hbus hdev => ?_, fun hbus hdev halloc => ?_⟩
  · rw [hexec, initSession_of_busFail hbus]
    exact ⟨_, rfl, initFault_effect (u := callBus pin s) hopen.1 hv rfl ref ⟨.busRegFail, e⟩⟩
  · rw [hexec, initSession_of_devFail hbus hdev]
    obtain ⟨hresult, hcalls, hrest⟩ :=
      initFault_effect (u := callDev (callBus pin s)) hopen.1 hv rfl ref ⟨.devRegFail, e⟩
    exact ⟨_, rfl, hresult, hcalls.trans (List.append_assoc _ _ _), hrest⟩
  · rw [hexec, initSession_of_allocFail hbus hdev halloc]
    obtain ⟨hresult, hcalls, hrest⟩ :=
      initFault_effect (u := callAlloc (2 * wordCountOf leds (gapOf m)) (callDev (callBus pin s))) hopen.1 hv rfl ref
        ⟨.allocFail, 0#32⟩
    exact ⟨_, rfl, hresult, hcalls.trans ((List.append_assoc _ _ _).trans (List.append_assoc _ _ _)), hrest⟩

/-! ### FILL -/

/-- R141: an empty range writes nothing. -/
theorem fillPixels_of_le {lo hi : Nat} (h : hi ≤ lo) (p : Pixel) (s : State) : fillPixels p lo hi s = s := by
  rw [fillPixels, Nat.sub_eq_zero_of_le h, List.range'_zero, List.foldl_nil]

/-- Settles O42: within `LEDS` FILL is its loop. -/
theorem fillWritesTheHalfOpenRange : Obligations.FillWritesTheHalfOpenRange := by
  intro p lo hi s hready hlo hhi
  refine ⟨finishOk (fillPixels p lo.toNat hi.toNat s), ?_, fillOnly_finishOk_fillPixels p _ _ s, ?_, ?_,
    fun hempty => ?_⟩
  · exact (exec_fill_of_le hlo hhi p).trans (guarded_none (sessionStop_ready hready) _)
  · exact fun i hi₁ hi₂ => readPixel_fillPixels hi.isLt.le hi₁ hi₂ p s
  · exact pixelsKeptOutside_fillPixels hi.isLt.le p s
  · rw [fillPixels_of_le hempty, finishOk_pix]

/-! ### The host's accesses -/

/-- R150: what the host may access. -/
theorem hostStop_of_allowed {ref : Handle} {i : Count} {s : State} (hidle : s.phase = .idle)
    (hown : (bufAt ref s).own = .caller) (hlen : i < (bufAt ref s).len)
    (hsession : s.valid = true → ref = s.pixref → i < s.leds) : hostStop ref i s = none := by
  have hbound : ¬ (s.valid ∧ ref = s.pixref ∧ s.leds ≤ i) :=
    fun ⟨hv, href, hi⟩ => BitVec.not_lt.2 hi (hsession hv href)
  rw [hostStop_of_idle hidle, if_neg (by simp [hown]), if_neg hbound, if_neg (BitVec.not_le.2 hlen)]

/-- Settles O49: the store is one write of pixel memory, and the load shows a read. -/
theorem hostStoresAndLoadsPixels : Obligations.HostStoresAndLoadsPixels := by
  intro ref i c v s hidle hown hlen hsession
  have hstop := hostStop_of_allowed hidle hown hlen hsession
  refine ⟨guarded_none hstop _, writeChan ref i.toNat c v s, guarded_none hstop _, rfl, fun h j d => ?_⟩
  simp only [readChan_writeChan i.isLt j.isLt, BitVec.toNat_inj]

end Sys2Proof.Machine
end

section
/-! Laws of every step (R12, R17, R22 to R25, R27, R30, R32, R33, R52): what each move of the host keeps, and from that
what a step keeps; the settlements of O52 to O58. -/

namespace Sys2Proof.Machine

/-! ### The session -/

/-- The session and the size of its TXB are as they were (R12, R20). -/
def SameSession (s t : State) : Prop :=
  t.valid = s.valid ∧ t.pin = s.pin ∧ t.model = s.model ∧ t.leds = s.leds ∧ t.pixref = s.pixref ∧
    t.resetGap = s.resetGap ∧ t.wordCount = s.wordCount ∧ t.txbBytes = s.txbBytes

theorem SameSession.refl (s : State) : SameSession s s := ⟨rfl, rfl, rfl, rfl, rfl, rfl, rfl, rfl⟩

theorem sameSession_transportMove (s : State) : SameSession s (transportMove s) := by
  obtain ⟨hmove, -⟩ := transportMove_spec s
  rw [hmove]
  exact .refl s

/-- R131: INIT, which alone writes the session, has no meaning in one. -/
theorem HostEffect.sameSession {s t : State} {m : HostMove} (h : HostEffect s m t) (hv : s.valid = true) :
    SameSession s t := by
  cases h with
  | init _ _ _ _ _ _ _ _ hinvalid => exact absurd (hv.symm.trans hinvalid) (by decide)
  | fill _ p lo hi =>
    rw [fillPixels_frame]
    exact .refl s
  | update =>
    obtain ⟨hsession, -⟩ := runUpdate_keeps s
    exact hsession
  | level | correction | lookup | illegal | store | load | resize => exact .refl s

/-- Settles O52: none of the four things a step can be writes a session that is valid. -/
theorem sessionRegistersAreFixed : Obligations.SessionRegistersAreFixed := by
  intro s t hv hstep
  have hsame : SameSession s t := by
    obtain ⟨-, -, rfl⟩ | ⟨-, m, rest, -, heffect⟩ | ⟨-, -, -, -, rfl⟩ | ⟨-, rfl⟩ := step_next hstep
    · exact .refl _
    · exact heffect.sameSession hv
    · exact .refl s
    · exact sameSession_transportMove s
  obtain ⟨hvalid, hregisters⟩ := hsame
  exact ⟨hvalid.trans hv, hregisters⟩

/-! ### FAULTED -/

theorem not_open_of_faulted {s : State} (hf : s.faulted = true) : ¬ Open s :=
  fun ⟨_, halive⟩ => absurd (hf.symm.trans halive) (by decide)

/-- R165 (e), R169: with `FAULTED` set the host's moves that remain are no command, or an illegal one. -/
theorem HostEffect.keeps_faulted {s t : State} {m : HostMove} (h : HostEffect s m t) (hf : s.faulted = true) :
    t.faulted = true ∧ (t.result = s.result ∨ t.result = ⟨.illegalCmd, 0#32⟩) := by
  have hclosed := not_open_of_faulted hf
  cases h with
  | init _ _ _ _ _ _ _ hopen => exact absurd hopen hclosed
  | fill _ _ _ _ hready => exact absurd hready.1 hclosed
  | level _ _ _ hopen => exact absurd hopen hclosed
  | correction _ _ _ hopen => exact absurd hopen hclosed
  | update _ _ hready => exact absurd hready.1 hclosed
  | illegal => exact ⟨hf, .inr rfl⟩
  | lookup | store | load | resize => exact ⟨hf, .inl rfl⟩

/-- Settles O53: a faulted block submits nothing, and a move of the transport does not touch `FAULTED`. -/
theorem faultedIsNeverCleared : Obligations.FaultedIsNeverCleared := by
  intro s t hf hstep
  obtain ⟨-, -, rfl⟩ | ⟨-, m, rest, -, heffect⟩ | ⟨-, halive, -⟩ | ⟨hwait, rfl⟩ := step_next hstep
  · exact ⟨hf, fun _ => .inl rfl⟩
  · obtain ⟨hfaulted, hresult⟩ := heffect.keeps_faulted hf
    exact ⟨hfaulted, fun _ => hresult⟩
  · exact absurd (hf.symm.trans halive) (by decide)
  · obtain ⟨hmove, -⟩ := transportMove_spec s
    exact ⟨by rw [hmove]; exact hf, fun hidle => absurd (hwait.symm.trans hidle) (by decide)⟩

/-! ### The settings -/

/-- R22: of the host's moves only SET_BRIGHTNESS writes the level. -/
theorem HostEffect.brightness {s t : State} {m : HostMove} (h : HostEffect s m t) :
    t.brightness = s.brightness ∨
      ∃ src level, m = .fetch src ∧ decode src = .setBrightness level ∧ t.brightness = level := by
  cases h with
  | level src v hd => exact .inr ⟨src, v, rfl, hd, rfl⟩
  | init _ _ _ _ _ _ _ _ _ _ hinit =>
    obtain ⟨hbright, -⟩ := hinit.keeps
    exact .inl hbright
  | fill _ p lo hi =>
    rw [fillPixels_frame]
    exact .inl rfl
  | update =>
    obtain ⟨-, hbright, -⟩ := runUpdate_keeps s
    exact .inl hbright
  | correction | lookup | illegal | store | load | resize => exact .inl rfl

/-- R23: of the host's moves only SET_COLOR_CORRECTION writes the flag. -/
theorem HostEffect.correctionFlag {s t : State} {m : HostMove} (h : HostEffect s m t) :
    t.correction = s.correction ∨
      ∃ src en, m = .fetch src ∧ decode src = .setColorCorrection en ∧ t.correction = en := by
  cases h with
  | correction src en hd => exact .inr ⟨src, en, rfl, hd, rfl⟩
  | init _ _ _ _ _ _ _ _ _ _ hinit =>
    obtain ⟨-, hcorr, -⟩ := hinit.keeps
    exact .inl hcorr
  | fill _ p lo hi =>
    rw [fillPixels_frame]
    exact .inl rfl
  | update =>
    obtain ⟨-, -, hcorr, -⟩ := runUpdate_keeps s
    exact .inl hcorr
  | level | lookup | illegal | store | load | resize => exact .inl rfl

/-- Settles O54: a setting changes in a move of the host only, and there in its own command. -/
theorem onlySettingsCommandsWriteSettings : Obligations.OnlySettingsCommandsWriteSettings := by
  intro s t hstep
  obtain ⟨-, -, rfl⟩ | ⟨hidle, m, rest, hport, heffect⟩ | ⟨-, -, -, -, rfl⟩ | ⟨-, rfl⟩ := step_next hstep
  · exact ⟨.inl rfl, .inl rfl⟩
  · refine ⟨heffect.brightness.imp_right ?_, heffect.correctionFlag.imp_right ?_⟩
    · rintro ⟨src, level, rfl, hd, hlevel⟩
      exact ⟨hidle, src, rest, level, hport, hd, hlevel⟩
    · rintro ⟨src, en, rfl, hd, hen⟩
      exact ⟨hidle, src, rest, en, hport, hd, hen⟩
  · exact ⟨.inl rfl, .inl rfl⟩
  · obtain ⟨hmove, -⟩ := transportMove_spec s
    rw [hmove]
    exact ⟨.inl rfl, .inl rfl⟩

/-! ### The line -/

/-- R32: the host's moves put nothing on the line. -/
theorem HostEffect.line {s t : State} {m : HostMove} (h : HostEffect s m t) : t.line = s.line := by
  cases h with
  | init _ _ _ _ _ _ _ _ _ _ hinit =>
    obtain ⟨-, -, hline, -⟩ := hinit.keeps
    exact hline
  | fill _ p lo hi =>
    rw [fillPixels_frame]
    rfl
  | update =>
    obtain ⟨-, -, -, hline, -⟩ := runUpdate_keeps s
    exact hline
  | level | correction | lookup | illegal | store | load | resize => rfl

/-- Settles O55: outside the wait the line stays, and there each move of the transport adds the next bits of the
frame. -/
theorem lineGrowsOnlyByTheFrame : Obligations.LineGrowsOnlyByTheFrame := by
  intro s t hstep
  have hkept : t.line = s.line → (s.phase ≠ .waiting → t.line = s.line) ∧
      ∃ bits, bits <+: (frameBits s).drop s.sent ∧ t.line = s.line ++ bits :=
    fun hline => ⟨fun _ => hline, [], List.nil_prefix, by rw [hline, List.append_nil]⟩
  obtain ⟨-, -, rfl⟩ | ⟨-, m, rest, -, heffect⟩ | ⟨-, -, -, -, rfl⟩ | ⟨hwait, rfl⟩ := step_next hstep
  · exact hkept rfl
  · exact hkept heffect.line
  · exact hkept rfl
  · obtain ⟨-, hbits⟩ := transportMove_spec s
    exact ⟨fun hp => absurd hwait hp, hbits⟩

/-! ### The memories -/

/-- R52: a move of the transport writes no memory. -/
theorem transportMove_memories (s : State) :
    (transportMove s).txb = s.txb ∧ (transportMove s).pix = s.pix ∧ (transportMove s).bufs = s.bufs := by
  obtain ⟨hmove, -⟩ := transportMove_spec s
  rw [hmove]
  exact ⟨rfl, rfl, rfl⟩

/-- Settles O56: a step of the wait is a move of the transport. -/
theorem memoriesAreStableInFlight : Obligations.MemoriesAreStableInFlight := by
  intro s t hwait hstep
  obtain rfl : transportMove s = t := Host.Outcome.next.inj ((step_of_waiting hwait).symm.trans hstep)
  exact transportMove_memories s

/-- R30: of the host's moves only UPDATE writes TXB, and INIT can leave a new one without contents. -/
theorem HostEffect.txb {s t : State} {m : HostMove} (h : HostEffect s m t) :
    t.txb = s.txb ∨ ∃ src, m = .fetch src ∧
      (decode src = .update ∨ (∃ pin m leds ref, decode src = .init pin m leds ref) ∧ t.txb = []) := by
  cases h with
  | init src pin m leds ref _ hd _ _ _ hinit =>
    obtain ⟨-, -, -, -, -, htxb⟩ := hinit.keeps
    exact htxb.imp_right fun hempty => ⟨src, rfl, .inr ⟨⟨pin, m, leds, ref, hd⟩, hempty⟩⟩
  | update src hd => exact .inr ⟨src, rfl, .inl hd⟩
  | fill _ p lo hi =>
    rw [fillPixels_frame]
    exact .inl rfl
  | level | correction | lookup | illegal | store | load | resize => exact .inl rfl

/-- Settles O57: outside a move of the host TXB stays. -/
theorem onlyBuildWritesTxb : Obligations.OnlyBuildWritesTxb := by
  intro s t hstep hchanged
  obtain ⟨-, -, rfl⟩ | ⟨hidle, m, rest, hport, heffect⟩ | ⟨-, -, -, -, rfl⟩ | ⟨-, rfl⟩ := step_next hstep
  · exact absurd rfl hchanged
  · obtain ⟨src, rfl, hcommand⟩ := heffect.txb.resolve_left hchanged
    exact ⟨hidle, src, rest, hport, hcommand⟩
  · exact absurd rfl hchanged
  · obtain ⟨htxb, -, -⟩ := transportMove_memories s
    exact absurd htxb hchanged

/-- R33 (c): who may use a memory is read off the table of pixel memories. -/
theorem bufAt_congr {s t : State} (h : t.bufs = s.bufs) (ref : Handle) : bufAt ref t = bufAt ref s := by
  rw [bufAt, bufAt, h]

/-- R170 to R172: a fault releases a memory or none, and gives none back. -/
theorem released_raise {s : State} {ref : Handle} (hown : (bufAt ref s).own = .released) (f : Raised) :
    (bufAt ref (raise f s)).own = .released := by
  have hrelease : ∀ x h, (bufAt ref (releasePix h { s with result := x, phase := .idle, valid := false })).own =
      .released := by
    intro x h
    rw [bufAt_releasePix]
    split_ifs
    · rfl
    · exact hown
  cases f with
  | busRegFail h | devRegFail h | allocFail h => exact hrelease _ h
  | transferError | sizeMismatch => exact hown

theorem InitEffect.released {pin : Byte} {m : Model} {leds : Count} {ref ref' : Handle} {s t : State}
    (h : InitEffect pin m leds ref s t) (hown : (bufAt ref' s).own = .released) : (bufAt ref' t).own = .released := by
  cases h with
  | bus => exact released_raise (s := callBus pin s) hown _
  | dev => exact released_raise (s := callDev (callBus pin s)) hown _
  | alloc => exact released_raise (s := callAlloc (2 * wordCountOf leds (gapOf m)) (callDev (callBus pin s))) hown _
  | opened => exact hown

/-- R205: the host has no move that takes a released memory back. -/
theorem HostEffect.released {s t : State} {m : HostMove} (h : HostEffect s m t) {ref : Handle}
    (hown : (bufAt ref s).own = .released) : (bufAt ref t).own = .released := by
  cases h with
  | init _ _ _ _ _ _ _ _ _ _ hinit => exact hinit.released hown
  | fill _ p lo hi =>
    rw [fillPixels_frame]
    exact hown
  | update =>
    obtain ⟨-, -, -, -, hbufs, -⟩ := runUpdate_keeps s
    rwa [bufAt_congr hbufs]
  | resize ref' len hstop =>
    obtain ⟨hnot, -⟩ := resizeStop_none hstop
    have hother : ref ≠ ref' := by
      rintro rfl
      exact hnot hown
    have hkept := bufAt_setBuf_other s ⟨len, .caller, (bufAt ref' s).gen + 1⟩ hother
    exact (congrArg HostBuf.own hkept).trans hown
  | level | correction | lookup | illegal | store | load => exact hown

/-- Settles O58: the table of pixel memories changes in a move of the host only. -/
theorem releasedMemoryStaysReleased : Obligations.ReleasedMemoryStaysReleased := by
  intro s t ref hstep hown
  obtain ⟨-, -, rfl⟩ | ⟨-, m, rest, -, heffect⟩ | ⟨-, -, -, -, rfl⟩ | ⟨-, rfl⟩ := step_next hstep
  · exact hown
  · exact heffect.released hown
  · exact hown
  · obtain ⟨-, -, hbufs⟩ := transportMove_memories s
    rwa [bufAt_congr hbufs]

end Sys2Proof.Machine
end
